-- ==== Sys2Proof/Word.lean ====
section
/-! DEFINITION. The words of UAC-CORE and the names of its two buffer slots
(spec/00_scope.md R8, R10, R14; spec/30_encoding.md R71, R75, R80).
A register or port word is a bit vector; a name the spec gives a set of is an inductive type. -/

namespace Sys2Proof

/-- One sample, `SAMPLE_W` = 16 bits, two's complement (R8, R73, R80). -/
abbrev Sample := BitVec 16

/-- One decoded byte, unsigned (R34, R80). -/
abbrev Byte := BitVec 8

/-- A stimulus word, format S (R71). -/
abbrev StimulusWord := BitVec 20

/-- An event word, format E (R75). -/
abbrev EventWord := BitVec 12

/-- An address of the frame-buffer space: bit 10 is the slot, bits 9 to 0 the index (R52). -/
abbrev BufAddr := BitVec 11

/-- The two buffer slots, numbered 0 and 1 (R21). -/
inductive Slot where
  | slot0
  | slot1
deriving DecidableEq, Repr

/-- The slot `o = 1 - s` of R101, R103. -/
def Slot.other : Slot → Slot
  | .slot0 => .slot1
  | .slot1 => .slot0

/-- The number of a slot as the one bit that every encoding carries (R72, R76, R52). -/
def Slot.bit : Slot → BitVec 1
  | .slot0 => 0#1
  | .slot1 => 1#1

/-- A word at one of the block's interfaces: on an input port, written in format S (R71), or on the
event port, in format E (R75). The two formats are separate spaces of words. -/
inductive PortWord where
  | stimulus (w : StimulusWord)
  | event (w : EventWord)
deriving DecidableEq, Repr

end Sys2Proof
end

