-- ==== Sys2Proof/Syntax.lean ====
section
/-! DEFINITION. What crosses the block's ports: the events it emits and the ten rows of
spec/opcode_table.json, five stimuli (spec/30_encoding.md R72) and five event words (R76), with the
port and the agent of each (R70, spec/00_scope.md R6), and the names under which a word that spells
nothing is rejected (R74, R76). -/

namespace Sys2Proof

/-- The events of R76, in the order of their `kind` codes. -/
inductive Event where
  /-- One decoded payload byte; the block emits it with `d` in 1..255 only (R171). -/
  | byte (d : Byte)
  /-- UAC's "sync lost" (R192). -/
  | syncLost
  /-- UAC's "transmission ended" (R193). -/
  | txEnded
  /-- The frame of slot `s` was dropped (R105, R194). -/
  | overrun (s : Slot)
  /-- Slot `s` is now FULL (R103, R196). -/
  | frameReady (s : Slot)
deriving DecidableEq, Repr

/-- The rows of spec/opcode_table.json. The first five are the operations of R72; the last five are
the event words of R76, which are outputs: performing one is emitting it (R11; log 3). -/
inductive Instr where
  /-- NOP (R100). -/
  | nop
  /-- RESET (R220). -/
  | reset
  /-- BEGIN_CAPTURE `s` (R101). -/
  | beginCapture (s : Slot)
  /-- SAMPLE `x` (R102). -/
  | sample (x : Sample)
  /-- CONSUME `s` (R104). -/
  | consume (s : Slot)
  /-- EVT.BYTE (R163, R171). -/
  | evtByte (d : Byte)
  /-- EVT.SYNC_LOST (R161). -/
  | evtSyncLost
  /-- EVT.TX_ENDED (R163). -/
  | evtTxEnded
  /-- EVT.OVERRUN (R105). -/
  | evtOverrun (s : Slot)
  /-- EVT.FRAME_READY (R103). -/
  | evtFrameReady (s : Slot)
deriving DecidableEq, Repr

/-- Why a word spells no row of the opcode table. -/
inductive DecodeError where
  /-- Format S with `op` in 0x5..0xF (R74). -/
  | reservedOp
  /-- NOP or RESET with `arg != 0` (R74). -/
  | argNotZero
  /-- BEGIN_CAPTURE or CONSUME with `arg[15:1] != 0` (R74). -/
  | slotArgNotZero
  /-- Format E with `kind` 0x0 or 0x6..0xF (R76). -/
  | reservedKind
  /-- SYNC_LOST or TX_ENDED with `data != 0` (93_implementation_defined.md I9). -/
  | dataNotZero
  /-- OVERRUN or FRAME_READY with `data[7:1] != 0` (I9). -/
  | slotDataNotZero
deriving DecidableEq, Repr

/-- The five ports of R70. -/
inductive Port where
  | reset
  | capture
  | sample
  | consume
  | event
deriving DecidableEq, Repr

/-- The three agents of R6. -/
inductive Agent where
  | producer
  | consumer
  | host
deriving DecidableEq, Repr

/-- The port a row's word crosses (R70). NOP is the moment in which no port fires (R100). -/
def Instr.port : Instr → Option Port
  | .nop => none
  | .reset => some .reset
  | .beginCapture _ => some .capture
  | .sample _ => some .sample
  | .consume _ => some .consume
  | .evtByte _ => some .event
  | .evtSyncLost => some .event
  | .evtTxEnded => some .event
  | .evtOverrun _ => some .event
  | .evtFrameReady _ => some .event

/-- The agent that drives an input port; the event port is the block's own output (R6, R70, R202). -/
def Port.agent : Port → Option Agent
  | .reset => some .host
  | .capture => some .host
  | .sample => some .producer
  | .consume => some .consumer
  | .event => none

/-- The row is one of the five stimuli of R72, not an event word. -/
def Instr.isStimulus : Instr → Bool
  | .nop => true
  | .reset => true
  | .beginCapture _ => true
  | .sample _ => true
  | .consume _ => true
  | .evtByte _ => false
  | .evtSyncLost => false
  | .evtTxEnded => false
  | .evtOverrun _ => false
  | .evtFrameReady _ => false

end Sys2Proof
end

