-- ==== Sys2Proof/Decode.lean ====
section
/-! DEFINITION. The decoder of the two word formats, total, rejecting by name, and after it the
encoder, both written from spec/30_encoding.md R71 to R76 and spec/opcode_table.json. Every bit of a
word is either a field or checked, so nothing reserved falls through to a neighbour (R74). -/

namespace Sys2Proof

/-- `s = zext_1(arg[0])` (R73). -/
def slotOfBit (b : BitVec 1) : Slot := if b = 0#1 then .slot0 else .slot1

/-- Format S (R71, R72): `op` is bits 19 to 16, `arg` bits 15 to 0. -/
def decodeStimulus (w : StimulusWord) : Except DecodeError Instr :=
  let op := w.extractLsb' 16 4
  let arg := w.extractLsb' 0 16
  let slotField := w.extractLsb' 0 1
  let slotZeros := w.extractLsb' 1 15
  if op = 0x0#4 then
    if arg = 0#16 then .ok .nop else .error .argNotZero
  else if op = 0x1#4 then
    if arg = 0#16 then .ok .reset else .error .argNotZero
  else if op = 0x2#4 then
    if slotZeros = 0#15 then .ok (.beginCapture (slotOfBit slotField)) else .error .slotArgNotZero
  else if op = 0x3#4 then
    .ok (.sample arg)
  else if op = 0x4#4 then
    if slotZeros = 0#15 then .ok (.consume (slotOfBit slotField)) else .error .slotArgNotZero
  else .error .reservedOp

/-- Format E (R75, R76): `kind` is bits 11 to 8, `data` bits 7 to 0. The word 0x100 spells EVT.BYTE
with data 0, an operand `Instr.wellFormed` rejects (R171). -/
def decodeEvent (w : EventWord) : Except DecodeError Instr :=
  let kind := w.extractLsb' 8 4
  let data := w.extractLsb' 0 8
  let slotField := w.extractLsb' 0 1
  let slotZeros := w.extractLsb' 1 7
  if kind = 0x1#4 then
    .ok (.evtByte data)
  else if kind = 0x2#4 then
    if data = 0#8 then .ok .evtSyncLost else .error .dataNotZero
  else if kind = 0x3#4 then
    if data = 0#8 then .ok .evtTxEnded else .error .dataNotZero
  else if kind = 0x4#4 then
    if slotZeros = 0#7 then .ok (.evtOverrun (slotOfBit slotField)) else .error .slotDataNotZero
  else if kind = 0x5#4 then
    if slotZeros = 0#7 then .ok (.evtFrameReady (slotOfBit slotField)) else .error .slotDataNotZero
  else .error .reservedKind

/-- The instruction a port word spells, or the name of what is wrong with it. -/
def decode : PortWord → Except DecodeError Instr
  | .stimulus w => decodeStimulus w
  | .event w => decodeEvent w

/-- A stimulus word from its two fields (R71). -/
def stimulusWord (op : BitVec 4) (arg : BitVec 16) : PortWord := .stimulus (op ++ arg)

/-- `kind` of an event (R76, R191). -/
def Event.kind : Event → BitVec 4
  | .byte _ => 0x1#4
  | .syncLost => 0x2#4
  | .txEnded => 0x3#4
  | .overrun _ => 0x4#4
  | .frameReady _ => 0x5#4

/-- `data` of an event (R76, R191). -/
def Event.data : Event → BitVec 8
  | .byte d => d
  | .syncLost => 0#8
  | .txEnded => 0#8
  | .overrun s => 0#7 ++ s.bit
  | .frameReady s => 0#7 ++ s.bit

/-- The 12-bit word of an event on the event port (R75). -/
def Event.word (e : Event) : EventWord := e.kind ++ e.data

/-- The port word of a row (R72, R76). -/
def encode : Instr → PortWord
  | .nop => stimulusWord 0x0#4 0#16
  | .reset => stimulusWord 0x1#4 0#16
  | .beginCapture s => stimulusWord 0x2#4 (0#15 ++ s.bit)
  | .sample x => stimulusWord 0x3#4 x
  | .consume s => stimulusWord 0x4#4 (0#15 ++ s.bit)
  | .evtByte d => .event (Event.byte d).word
  | .evtSyncLost => .event Event.syncLost.word
  | .evtTxEnded => .event Event.txEnded.word
  | .evtOverrun s => .event (Event.overrun s).word
  | .evtFrameReady s => .event (Event.frameReady s).word

/-- The port word whose bits are `w`, in the space that the size of a row of spec/opcode_table.json
selects: rows of 12 bits (16 in whole bytes) are event words, rows of 20 bits (24 in whole bytes)
stimuli (log 16). -/
def portWordOfTable (nbits w : Nat) : PortWord :=
  if nbits ≤ 16 then .event (BitVec.ofNat 12 w) else .stimulus (BitVec.ofNat 20 w)

/-- `w` has no bit above the width of its format. -/
def tableWordFits (nbits w : Nat) : Bool :=
  if nbits ≤ 16 then decide (w < 2 ^ 12) else decide (w < 2 ^ 20)

/-- The instruction this decoder reads from a table row's bits (the host's question). -/
def decodeTableWord (nbits w : Nat) : Option Instr :=
  if tableWordFits nbits w then (decode (portWordOfTable nbits w)).toOption else none

end Sys2Proof
end

