-- ==== Sys2Proof/Config.lean ====
section
/-! DEFINITION. The parameters of spec/00_scope.md R8, each a named constant with the value this
hardware takes (UNVERIFIED against any device, see notes/assumptions/14.md), and the legality
check on a coefficient (spec/41_tone_detector.md R128). Nothing here is state (R27). -/

namespace Sys2Proof.Config

/-- `N`, samples per frame (R8). -/
abbrev frameLen : Nat := 1024

/-- `FRAME_RATE` in Hz (R8). -/
def frameRate : Nat := 50

/-- `R`, the sample rate in Hz, `N × FRAME_RATE` (R8). -/
def sampleRate : Nat := frameLen * frameRate

/-- `SLOTS` (R8). -/
def slots : Nat := 2

/-- `FRAMES_PER_BIT` (R8). -/
abbrev framesPerBit : Nat := 5

/-- `MAJORITY`: the protocol bit is 1 when `sum > MAJORITY` (R8, R146). -/
def majority : Nat := 2

/-- `BITS_PER_BYTE` (R8). -/
def bitsPerByte : Nat := 8

/-- `Q`, fraction bits of the coefficient (R8). -/
def q : Nat := 14

/-- `PRESHIFT`, the "overflow guard" (R8, R123). -/
def preshift : Nat := 4

/-- `POWER_SHR` (R8, R123). -/
def powerShr : Nat := 15

/-- `MAG_SHL` (R8, R123). -/
def magShl : Nat := 6

/-- `THRESH`, the detection threshold (R8, R125). -/
def thresh : Int := 100

/-- `F_SYNC` in Hz (R8). -/
def fSync : Nat := 21000

/-- `F_PAYLOAD` in Hz (R8). -/
def fPayload : Nat := 20000

/-- `K_SYNC`, the bin of the sync carrier (R8, R122). -/
def kSync : Nat := 420

/-- `K_PAYLOAD`, the bin of the payload carrier (R8, R122). -/
def kPayload : Nat := 400

/-- `COEFF_SYNC` = `round(2·cos(2π·420/1024)·2^14)` (R8, R122). -/
def coeffSync : Int := -27684

/-- `COEFF_PAYLOAD` = `round(2·cos(2π·400/1024)·2^14)` (R8, R122). -/
def coeffPayload : Int := -25330

/-- `STOP_BYTE` (R8). -/
def stopByte : Byte := 0x00#8

/-- `SAMPLE_W` (R8); the width of `Sample`. -/
def sampleW : Nat := 16

/-- `BWI_W` (R8); the width of `bit_window_index`. -/
def bwiW : Nat := 32

/-- One frame in milliseconds (R9); read by no operation (R232). -/
def framePeriodMs : Nat := 1000 / frameRate

/-- One bit window in milliseconds (R9); read by no operation (R232). -/
def bitWindowMs : Nat := framesPerBit * framePeriodMs

/-- One byte in milliseconds (R9); read by no operation (R232). -/
def byteMs : Nat := bitsPerByte * bitWindowMs

/-- The spacing of the bins in Hz, `R / N` (R9). -/
def binSpacing : Nat := sampleRate / frameLen

end Sys2Proof.Config
end

