-- ==== Sys2Proof/Machine/State.lean ====
section
/-! DEFINITION. The whole state of UAC-CORE as plain data (spec/10_state.md R20), the model's two
own fields beside it (the input still to be performed and what the event port has carried), the
reasons a step can stop, and the state after RESET (R39). -/

namespace Sys2Proof.Machine

/-- The state of one buffer slot (R21), coded by R77; the reserved code 0b11 has no constructor. -/
inductive SlotState where
  | empty
  | filling
  | full
deriving DecidableEq, Repr

/-- The decoder's phase (R31), coded by R78; IDLE is a second name of EXPECT_ONE. -/
inductive Phase where
  | expectOne
  | expectZero
  | locked
  | failed
deriving DecidableEq, Repr

/-- `slot_state[0]` and `slot_state[1]` (R21). -/
structure SlotStates where
  slot0 : SlotState
  slot1 : SlotState
deriving DecidableEq, Repr

/-- The frame buffers: (address, sample word) pairs, addresses strictly rising and below 2048 (R50 to
R52). An address that is not listed holds no value: no SAMPLE has written it (R22; log 5, log 9). -/
abbrev Memory := List (Nat × Sample)

/-- Why the machine stops. No run of stimuli from RESET reaches one of these (R201). -/
inductive Fault where
  /-- CONSUME read a buffer word that nothing has written (R22, I10). Raised by `execConsume`. Safe:
  the hardware would read an unspecified value and go on. -/
  | unwrittenWord (a : BufAddr)
  /-- A frame completed while the other slot is FILLING as well (R103, I15). Raised by `execSample`.
  Safe: the spec calls the case unreachable and lets a model fault. -/
  | bothSlotsFilling
  /-- The event word BYTE with data 0, which is never emitted (R171, I9). Raised by `execEvtByte`.
  Safe: no hardware puts this word on the event port. -/
  | neverEmittedEvent
deriving DecidableEq, Repr

/-- Why there is no meaning for what a step was given. -/
inductive Refusal where
  /-- An instruction without a meaning yet; raised by an arm of `exec`. Safe: a run stops. -/
  | notModelled (mnemonic : String)
  /-- A word that spells no row (R74, I7, I9). Raised by `step`. Safe: the hardware ignores the word and
  goes on, and the spec asks a model to refuse it. -/
  | reservedWord (e : DecodeError)
deriving DecidableEq, Repr

/-- The architectural state (R20) and the model's own `input` and `events`. -/
structure State where
  /-- `slot_state[0..1]` (R21). -/
  slots : SlotStates
  /-- `buf[0..1][0..N-1]` (R22). -/
  buf : Memory
  /-- `wr_idx`, 10 bits (R23). -/
  wrIdx : BitVec 10
  /-- `ovr_sticky`, 1 bit (R24). -/
  ovrSticky : Bool
  /-- `win`, 5 bits, `win[0]` the newest raw bit (R29). -/
  win : BitVec 5
  /-- `frame_cnt`, 0..4 (R30). -/
  frameCnt : Fin 5
  /-- `phase` (R31). -/
  phase : Phase
  /-- `transfer_active` (R32). -/
  transferActive : Bool
  /-- `bit_window_index`, 32 bits (R33). -/
  bitWindowIndex : BitVec 32
  /-- `pending_byte`, 8 bits (R34). -/
  pendingByte : Byte
  /-- `bits_in_byte`, 3 bits (R35). -/
  bitsInByte : BitVec 3
  /-- The model's own: the port words still to be performed, first one first (R71, R232; log 1). -/
  input : List PortWord
  /-- The model's own: every event the event port has carried, oldest first (R16, R75; log 2). -/
  events : List Event
deriving DecidableEq, Repr

/-- The machine right after RESET (R39, R220): no buffer word is listed (R22), no input is waiting
and no event has been emitted. -/
def State.reset : State where
  slots := ⟨.empty, .empty⟩
  buf := []
  wrIdx := 0#10
  ovrSticky := false
  win := 0#5
  frameCnt := 0
  phase := .expectOne
  transferActive := false
  bitWindowIndex := 0#32
  pendingByte := 0#8
  bitsInByte := 0#3
  input := []
  events := []

end Sys2Proof.Machine
end

