-- ==== Sys2Proof/Machine/Operands.lean ====
section
/-! DEFINITION. Operand assembly (spec/30_encoding.md R73), the address of a buffer word
(spec/20_memory.md R52), the exact-integer shifts (spec/00_scope.md R13) and one-bit values (R14). -/

namespace Sys2Proof.Machine

/-- `sext_16`: the number a sample word stands for, in −32768..32767 (R10, R73, R80). -/
def sampleValue (x : Sample) : Int := x.toInt

/-- The address `s × N + i` of word `i` of slot `s`: bit 10 is the slot, bits 9 to 0 the index (R52). -/
def bufAddr (s : Slot) (i : BitVec 10) : BufAddr := s.bit ++ i

/-- `v >> n = floor(v / 2^n)` on ℤ, rounding toward minus infinity (R13). -/
def shr (v : Int) (n : Nat) : Int := v / ((2 ^ n : Nat) : Int)

/-- `v << n = v × 2^n` on ℤ (R13). -/
def shl (v : Int) (n : Nat) : Int := v * ((2 ^ n : Nat) : Int)

/-- A bool state element or a comparison as one bit (R14). -/
def bitOf (b : Bool) : BitVec 1 := if b then 1#1 else 0#1

end Sys2Proof.Machine
end

