-- ==== Sys2Proof/Machine/Ops.lean ====
section
/-! DEFINITION. The named operations over the frame buffers (spec/20_memory.md), the slot flags
(spec/10_state.md R21, R25), the event port (spec/00_scope.md R11) and the input, and the three state
changes that several operations share: RESET's, the scheduler's hand-off and the stop-reset.

The block takes no exception and has nothing to return from (spec/60_exceptions.md R190, R199, R200):
the one shared operation by which a condition is reported is `State.emit`. -/

namespace Sys2Proof.Machine

/-! ## The frame buffers -/

/-- The word listed at an address, or no value where nothing has been written (R22). -/
def lookupCell : Memory → Nat → Option Sample
  | [], _ => none
  | (a, v) :: m, k => if a = k then some v else lookupCell m k

/-- The list with the word at address `k` set to `v`, addresses kept strictly rising. -/
def insertCell : Memory → Nat → Sample → Memory
  | [], k, v => [(k, v)]
  | (a, w) :: m, k, v =>
    if k < a then (k, v) :: (a, w) :: m
    else if k = a then (k, v) :: m
    else (a, w) :: insertCell m k v

/-- `MemRead(addr, 1)` (R11, R51, R55): one whole word, no side effect (R58). -/
def memRead (m : Memory) (a : BufAddr) : Option Sample := lookupCell m a.toNat

/-- `MemWrite(addr, 1, v)` (R11, R51, R55): one whole word. -/
def memWrite (m : Memory) (a : BufAddr) (v : Sample) : Memory := insertCell m a.toNat v

/-- The canonical form: addresses strictly rising, all of them in the space of R50. An entry always
holds a value and an unlisted address holds none, so no entry equals what an unlisted address reads as. -/
abbrev Memory.wf (m : Memory) : Prop :=
  m.Pairwise (fun c d => c.1 < d.1) ∧ ∀ c ∈ m, c.1 < Config.slots * Config.frameLen

/-- `frame[i] = MemRead(s × N + i, 1)` for the indices given, in order (R55, R104); the first word
that nothing has written is named. -/
def readWords (m : Memory) (s : Slot) : List Nat → Except BufAddr (List Sample)
  | [] => .ok []
  | i :: is =>
    match memRead m (bufAddr s (BitVec.ofNat 10 i)) with
    | none => .error (bufAddr s (BitVec.ofNat 10 i))
    | some v =>
      match readWords m s is with
      | .error a => .error a
      | .ok vs => .ok (v :: vs)

/-- The `N` reads of CONSUME, index 0 first (R53, R55, R104). -/
def readFrame (m : Memory) (s : Slot) : Except BufAddr (List Sample) :=
  readWords m s (List.range Config.frameLen)

/-- `buf[s][wr_idx] <- x` (R55, R102). -/
def State.storeSample (st : State) (s : Slot) (x : Sample) : State :=
  { st with buf := memWrite st.buf (bufAddr s st.wrIdx) x }

/-! ## The slot flags -/

/-- `slot_state[s]` (R21). -/
def SlotStates.get (t : SlotStates) : Slot → SlotState
  | .slot0 => t.slot0
  | .slot1 => t.slot1

/-- `slot_state[s] <- v`, the other flag unchanged (R21, R59). -/
def SlotStates.set (t : SlotStates) (s : Slot) (v : SlotState) : SlotStates :=
  match s with
  | .slot0 => { t with slot0 := v }
  | .slot1 => { t with slot1 := v }

/-- `slot_state[s]` of a state (R21). -/
def State.slot (st : State) (s : Slot) : SlotState := st.slots.get s

/-- `slot_state[s] <- v` (R21). -/
def State.setSlot (st : State) (s : Slot) (v : SlotState) : State :=
  { st with slots := st.slots.set s v }

/-- `wr_idx <- i` (R23). -/
def State.setWrIdx (st : State) (i : BitVec 10) : State := { st with wrIdx := i }

/-- `fill_slot` (R25), slot 0 looked at first as in R102. -/
def State.fillSlot (st : State) : Option Slot :=
  if st.slots.slot0 = .filling then some .slot0
  else if st.slots.slot1 = .filling then some .slot1
  else none

/-! ## The event port and the input -/

/-- `emit K(d)` (R11): the event is appended to what the event port has carried; nothing else changes
(R190, R199). -/
def State.emit (st : State) (e : Event) : State := { st with events := st.events ++ [e] }

/-- The next port word and the state it leaves for its operation, or nothing when no port fires
(R70, R71, R100). -/
def State.fetch (st : State) : Option (PortWord × State) :=
  match st.input with
  | [] => none
  | w :: rest => some (w, { st with input := rest })

/-! ## Shared state changes -/

/-- RESET's writes: every element but `buf` (R220, R39). -/
def State.resetBlock (st : State) : State :=
  { st with
    slots := ⟨.empty, .empty⟩
    wrIdx := 0#10
    ovrSticky := false
    win := 0#5
    frameCnt := 0
    phase := .expectOne
    transferActive := false
    bitWindowIndex := 0#32
    pendingByte := 0#8
    bitsInByte := 0#3 }

/-- The stop-reset: exactly five elements (R165). -/
def State.stopReset (st : State) : State :=
  { st with
    phase := .expectOne
    transferActive := false
    bitWindowIndex := 0#32
    pendingByte := 0#8
    bitsInByte := 0#3 }

/-- OVERRUN_RECLAIM(`f`, `o`) (R105). -/
def State.overrunReclaim (st : State) (f o : Slot) : State :=
  (({ (st.setSlot o .filling) with ovrSticky := true }).emit (.overrun o)).emit (.frameReady f)

/-- FRAME_COMPLETE(`f`) (R103): the hand-off, or the overrun of R105 when the other slot is FULL. The
other slot FILLING is the case R103 and 93_implementation_defined.md I15 call unreachable (log 6). -/
def State.frameComplete (st : State) (f : Slot) : Except Fault State :=
  let done := st.setSlot f .full
  match st.slot f.other with
  | .empty => .ok ((done.setSlot f.other .filling).emit (.frameReady f))
  | .full => .ok (done.overrunReclaim f f.other)
  | .filling => .error .bothSlotsFilling

end Sys2Proof.Machine
end

