-- ==== Sys2Proof/Machine/EventPort.lean ====
section
/-! DEFINITION. The five event rows of the opcode table (spec/30_encoding.md R75, R76). An event word
is an output; what the spec gives it is its emission, `emit K(d)` (spec/00_scope.md R11), which changes
nothing but what the event port has carried (spec/60_exceptions.md R199; log 3). -/

namespace Sys2Proof.Machine

/-- EVT.BYTE (R163). With data 0 it is the word 0x100, which is never emitted (R171, I9; log 4). -/
def execEvtByte (d : Byte) (st : State) : Host.Outcome State Fault Refusal :=
  if d = Config.stopByte then .fault .neverEmittedEvent else .next (st.emit (.byte d))

/-- EVT.SYNC_LOST (R161, R192). -/
def execEvtSyncLost (st : State) : Host.Outcome State Fault Refusal := .next (st.emit .syncLost)

/-- EVT.TX_ENDED (R163, R193). -/
def execEvtTxEnded (st : State) : Host.Outcome State Fault Refusal := .next (st.emit .txEnded)

/-- EVT.OVERRUN (R105, R194). -/
def execEvtOverrun (s : Slot) (st : State) : Host.Outcome State Fault Refusal :=
  .next (st.emit (.overrun s))

/-- EVT.FRAME_READY (R103, R195, R196). -/
def execEvtFrameReady (s : Slot) (st : State) : Host.Outcome State Fault Refusal :=
  .next (st.emit (.frameReady s))

end Sys2Proof.Machine
end

