-- ==== Sys2Proof/Machine/Flags.lean ====
section
/-! DEFINITION. The derived outputs (spec/10_state.md R36), the codes of the state elements
(spec/30_encoding.md R77, R78) and the status view ST0 to ST3 (R79): functions of the state, read-only
and without side effect. -/

namespace Sys2Proof.Machine

/-- The 2-bit code of a slot state (R77). -/
def SlotState.code : SlotState → BitVec 2
  | .empty => 0b00#2
  | .filling => 0b01#2
  | .full => 0b10#2

/-- The 2-bit code of a phase (R78). -/
def Phase.code : Phase → BitVec 2
  | .expectOne => 0b00#2
  | .expectZero => 0b01#2
  | .locked => 0b10#2
  | .failed => 0b11#2

/-- `popcount` of the 5-bit window (R11). -/
def popcount (w : BitVec 5) : Nat :=
  (w.getLsbD 0).toNat + (w.getLsbD 1).toNat + (w.getLsbD 2).toNat + (w.getLsbD 3).toNat
    + (w.getLsbD 4).toNat

/-- `sum = popcount(win)` (R36, R142). -/
def State.windowSum (st : State) : Nat := popcount st.win

/-- `win` after one more raw bit: `((win << 1) | raw) & 0b11111` (R141). -/
def shiftWindow (w : BitVec 5) (raw : Bool) : BitVec 5 := (w <<< 1) ||| (bitOf raw).zeroExtend 5

/-- The majority bit, `sum > 2` (R146). -/
def majorityBit (sum : Nat) : Bool := decide (Config.majority < sum)

/-- The carrier a phase selects: 1 the payload carrier, 0 the sync carrier (R36, R140). -/
def Phase.carrier : Phase → BitVec 1
  | .expectOne => 0#1
  | .expectZero => 0#1
  | .locked => 1#1
  | .failed => 0#1

/-- `carrier_sel` (R36). -/
def State.carrierSel (st : State) : BitVec 1 := st.phase.carrier

/-- ST0 SCHED (R79): `wr_idx ++ 0 ++ ovr_sticky ++ slot_state[1] ++ slot_state[0]`. -/
def State.st0 (st : State) : BitVec 16 :=
  st.wrIdx ++ 0#1 ++ bitOf st.ovrSticky ++ st.slots.slot1.code ++ st.slots.slot0.code

/-- ST1 PROTO (R79): `0 ++ win ++ bits_in_byte ++ frame_cnt ++ carrier_sel ++ transfer_active ++ phase`. -/
def State.st1 (st : State) : BitVec 16 :=
  0#1 ++ st.win ++ st.bitsInByte ++ BitVec.ofNat 3 st.frameCnt.val ++ st.carrierSel
    ++ bitOf st.transferActive ++ st.phase.code

/-- ST2 PENDING (R79). -/
def State.st2 (st : State) : BitVec 8 := st.pendingByte

/-- ST3 BWI (R79). -/
def State.st3 (st : State) : BitVec 32 := st.bitWindowIndex

/-- The event words the event port has carried, in order (R16, R75). -/
def State.eventWords (st : State) : List EventWord := st.events.map Event.word

end Sys2Proof.Machine
end

