-- ==== Sys2Proof/Machine/Decoder.lean ====
section
/-! DEFINITION. The Sync & Byte Decoder, DECODE, in its five steps (spec/43_decoder.md R160 to R165). -/

namespace Sys2Proof.Machine

/-- `phase <- FAILED ; emit SYNC_LOST`: nothing else changes by the failure (R161, R166, R192). -/
def State.loseSync (st : State) : State := { st with phase := .failed }.emit .syncLost

/-- Step 1, preamble validation on the exact count (R161). -/
def State.checkPreamble (st : State) (sum : Nat) : State :=
  match st.phase with
  | .locked => st
  | .failed => st
  | .expectOne => if sum = 5 then { st with phase := .expectZero } else st.loseSync
  | .expectZero => if sum = 0 then { st with phase := .expectOne } else st.loseSync

/-- Step 2, bit accumulation, most significant bit first (R162). -/
def State.accumulateBit (st : State) (bit : Bool) : State :=
  { st with
    pendingByte := (st.pendingByte <<< 1) ||| (bitOf bit).zeroExtend 8
    bitsInByte := st.bitsInByte + 1#3 }

/-- Step 3's four cases on the `phase` left by step 1 and the byte just completed (R163). -/
def State.deliverByte (st : State) : State :=
  if st.pendingByte = Config.stopByte then st.emit .txEnded
  else
    match st.phase with
    | .expectOne => { st with phase := .locked }
    | .locked => st.emit (.byte st.pendingByte)
    | .expectZero => st
    | .failed => st

/-- Step 3, the byte boundary: `pendingByte` goes to 0 whichever case applies; off a boundary nothing
happens (R163). -/
def State.byteBoundary (st : State) : State :=
  if st.bitsInByte = 0#3 then { st.deliverByte with pendingByte := 0#8 } else st

/-- `stop` of R160: this is the eighth bit and the byte is the stop byte. -/
def State.stopSeen (st : State) : Bool :=
  decide (st.bitsInByte = 0#3) && decide (st.pendingByte = Config.stopByte)

/-- Step 4, `bit_window_index + 1` modulo 2^32 (R164). -/
def State.countWindow (st : State) : State := { st with bitWindowIndex := st.bitWindowIndex + 1#32 }

/-- DECODE(`sum`) (R160): the five steps in order, the stop-reset last. -/
def State.decodeWindow (st : State) (sum : Nat) : State :=
  let bits := (st.checkPreamble sum).accumulateBit (majorityBit sum)
  let counted := bits.byteBoundary.countWindow
  if bits.stopSeen then counted.stopReset else counted

end Sys2Proof.Machine
end

