-- ==== Sys2Proof/Machine/Detector.lean ====
section
/-! DEFINITION. The Tone Detector (spec/41_tone_detector.md): TONE_MAG and DETECT, two pure functions
over exact integers (spec/00_scope.md R12). The working values are no state of the block (R28). -/

namespace Sys2Proof.Machine

/-- `s1` and `s2`, the recurrence's two registers (R28, R123). -/
structure Recurrence where
  s1 : Int
  s2 : Int
deriving DecidableEq, Repr

/-- `(s1 × coeff) >> 14`: the product in full, then the shift (R123, R130). -/
def scaledProduct (s1 coeff : Int) : Int := shr (s1 * coeff) Config.q

/-- One sample of the recurrence: `s_new = scaled + ((s1 × coeff) >> 14) − s2` (R123). -/
def filterSample (coeff : Int) (r : Recurrence) (x : Sample) : Recurrence :=
  { s1 := shr (sampleValue x) Config.preshift + scaledProduct r.s1 coeff - r.s2
    s2 := r.s1 }

/-- The recurrence over a frame, index 0 first, from `s1 = s2 = 0` (R123). -/
def filterFrame (frame : List Sample) (coeff : Int) : Recurrence :=
  frame.foldl (filterSample coeff) ⟨0, 0⟩

/-- `power = s1×s1 + s2×s2 − (((s1 × coeff) >> 14) × s2)` (R123). -/
def powerOf (coeff : Int) (r : Recurrence) : Int :=
  r.s1 * r.s1 + r.s2 * r.s2 - scaledProduct r.s1 coeff * r.s2

/-- `magnitude = (power >> 15) << 6` (R123). -/
def magnitudeOf (power : Int) : Int := shl (shr power Config.powerShr) Config.magShl

/-- TONE_MAG (R123). -/
def toneMag (frame : List Sample) (coeff : Int) : Int :=
  magnitudeOf (powerOf coeff (filterFrame frame coeff))

/-- DETECT: `magnitude >= 100`, a signed comparison (R125). -/
def detect (magnitude : Int) : Bool := decide (Config.thresh ≤ magnitude)

end Sys2Proof.Machine
end

