-- ==== Sys2Proof/Machine/Debouncer.lean ====
section
/-! DEFINITION. The Bit Debouncer / Carrier Selector, CARRIER_SEL and VOTE (spec/42_debouncer.md), and
the per-frame pipeline STEP (spec/43_decoder.md R170). -/

namespace Sys2Proof.Machine

/-- CARRIER_SEL (R140). -/
def carrierCoeff : Phase → Int
  | .expectOne => Config.coeffSync
  | .expectZero => Config.coeffSync
  | .locked => Config.coeffPayload
  | .failed => Config.coeffSync

/-- Activation: the activating frame is frame 1 of bit window 1 (R144). -/
def State.activate (st : State) : State := { st with transferActive := true, frameCnt := 1 }

/-- `win` takes the new raw bit, whether idle or active (R141, R142). -/
def State.shiftWin (st : State) (raw : Bool) : State := { st with win := shiftWindow st.win raw }

/-- VOTE(`raw`) (R141). -/
def State.vote (st : State) (raw : Bool) : State :=
  let seen := st.shiftWin raw
  if seen.transferActive then
    if seen.frameCnt.val + 1 = Config.framesPerBit then
      { seen with frameCnt := 0 }.decodeWindow seen.windowSum
    else { seen with frameCnt := seen.frameCnt + 1 }
  else if raw then seen.activate
  else seen

/-- The raw bit of a frame: DETECT of TONE_MAG with the carrier of the phase before it (R140, R170). -/
def State.rawBit (st : State) (frame : List Sample) : Bool :=
  detect (toneMag frame (carrierCoeff st.phase))

/-- STEP(`frame`) (R170). -/
def State.stepFrame (st : State) (frame : List Sample) : State := st.vote (st.rawBit frame)

end Sys2Proof.Machine
end

