-- ==== Sys2Proof/Machine/Scheduler.lean ====
section
/-! DEFINITION. The scheduler's operations NOP, BEGIN_CAPTURE, SAMPLE and CONSUME
(spec/40_scheduler.md R100 to R105). -/

namespace Sys2Proof.Machine

/-- NOP (R100): the state is left equal and nothing is emitted. -/
def execNop (st : State) : Host.Outcome State Fault Refusal := .next st

/-- BEGIN_CAPTURE `s` (R101). -/
def execBeginCapture (s : Slot) (st : State) : Host.Outcome State Fault Refusal :=
  if st.slot s = .empty ∧ st.slot s.other ≠ .filling then
    .next ((st.setSlot s .filling).setWrIdx 0#10)
  else .next st

/-- SAMPLE `x` (R102): stored unchanged at `wr_idx` of the FILLING slot, discarded when there is none. -/
def execSample (x : Sample) (st : State) : Host.Outcome State Fault Refusal :=
  match st.fillSlot with
  | none => .next st
  | some f =>
    let stored := st.storeSample f x
    if st.wrIdx.toNat + 1 = Config.frameLen then
      match (stored.setWrIdx 0#10).frameComplete f with
      | .ok st' => .next st'
      | .error e => .fault e
    else .next (stored.setWrIdx (st.wrIdx + 1#10))

/-- CONSUME `s` (R104): the frame is read, the pipeline runs, the slot is freed, as one operation. -/
def execConsume (s : Slot) (st : State) : Host.Outcome State Fault Refusal :=
  match st.slot s with
  | .empty => .next st
  | .filling => .next st
  | .full =>
    match readFrame st.buf s with
    | .error a => .fault (.unwrittenWord a)
    | .ok frame => .next ((st.stepFrame frame).setSlot s .empty)

end Sys2Proof.Machine
end

