-- ==== Sys2Proof/Machine/System.lean ====
section
/-! DEFINITION. The host's RESET (spec/70_reset_and_hazards.md R220). -/

namespace Sys2Proof.Machine

/-- RESET (R220): every element but `buf` to its reset value, no event, not even for a transfer it
cuts short. -/
def execReset (st : State) : Host.Outcome State Fault Refusal := .next st.resetBlock

end Sys2Proof.Machine
end

