-- ==== Sys2Proof/Machine/Dispatch.lean ====
section
/-! DEFINITION. One arm per row of spec/opcode_table.json. -/

namespace Sys2Proof.Machine

/-- The meaning of one instruction in a state. -/
def exec (i : Instr) (s : State) : Host.Outcome State Fault Refusal :=
  match i with
  | .nop => Sys2Proof.Machine.execNop s
  | .reset => Sys2Proof.Machine.execReset s
  | .beginCapture k => Sys2Proof.Machine.execBeginCapture k s
  | .sample x => Sys2Proof.Machine.execSample x s
  | .consume k => Sys2Proof.Machine.execConsume k s
  | .evtByte d => Sys2Proof.Machine.execEvtByte d s
  | .evtSyncLost => Sys2Proof.Machine.execEvtSyncLost s
  | .evtTxEnded => Sys2Proof.Machine.execEvtTxEnded s
  | .evtOverrun k => Sys2Proof.Machine.execEvtOverrun k s
  | .evtFrameReady k => Sys2Proof.Machine.execEvtFrameReady k s

end Sys2Proof.Machine
end

