-- ==== Sys2Proof/Machine/Step.lean ====
section
/-! DEFINITION. One step: the next port word is taken from the input, decoded, and its operation
performed as one atomic transition (spec/00_scope.md R15). -/

namespace Sys2Proof.Machine

/-- A step with no word waiting is a moment in which no port fires, which is NOP (R100; log 1). A
reserved word is refused (R74; log 7). -/
def step (s : State) : Host.Outcome State Fault Refusal :=
  match s.fetch with
  | none => execNop s
  | some (w, s') =>
    match decode w with
    | .ok i => exec i s'
    | .error e => .refused (.reservedWord e)

/-- The state with one more port word, the next to be performed; the rest of the input waits behind
it (log 1, log 16). -/
def State.withFetchWord (s : State) (nbits w : Nat) : State :=
  { s with input := portWordOfTable nbits w :: s.input }

end Sys2Proof.Machine
end

