-- ==== Sys2Proof/Safety.lean ====
section
/-! DEFINITION. What the claims about the machine are said with: the invariants of the scheduler
(spec/10_state.md R26, spec/40_scheduler.md R108) and of the decoder (R37), runs of stimuli
(spec/00_scope.md R15), and the protocol as the block sees it (spec/43_decoder.md R172). -/

namespace Sys2Proof

open Machine

/-! ## Invariants -/

/-- The five pairs of slot states that are reachable from RESET (R26). -/
def SlotsLegal (t : SlotStates) : Prop :=
  t = ⟨.empty, .empty⟩ ∨ t = ⟨.filling, .empty⟩ ∨ t = ⟨.filling, .full⟩ ∨ t = ⟨.empty, .filling⟩ ∨
    t = ⟨.full, .filling⟩

/-- Word `i` of slot `s` holds a value. -/
def Written (m : Memory) (s : Slot) (i : BitVec 10) : Prop := (memRead m (bufAddr s i)).isSome = true

/-- A FULL slot has all its words written, a FILLING one those below `wr_idx` (R108, R22). -/
def FramesWritten (st : State) : Prop :=
  ∀ s i, (st.slot s = .full → Written st.buf s i) ∧
    (st.slot s = .filling → i.toNat < st.wrIdx.toNat → Written st.buf s i)

/-- `wr_idx` is 0 while no slot is FILLING (R23, R109). -/
def WrIdxIdle (st : State) : Prop := st.fillSlot = none → st.wrIdx = 0#10

/-- The decoder's elements while `transfer_active == 0` (R37 b). -/
def DecoderIdle (st : State) : Prop :=
  st.transferActive = false ∧ st.phase = .expectOne ∧ st.frameCnt = 0 ∧ st.bitWindowIndex = 0#32 ∧
    st.pendingByte = 0#8 ∧ st.bitsInByte = 0#3

/-- The first `n` bits of the preamble `1,0,1,0,1,0,1,0` as `pending_byte` holds them (R162, R169). -/
def preamblePrefix (n : BitVec 3) : Byte := 0xAA#8 >>> (8 - n.toNat)

/-- The decoder is still in the preamble (R161). -/
def InPreamble (st : State) : Prop := st.phase = .expectOne ∨ st.phase = .expectZero

/-- R37, with what R162 and R169 say of `pending_byte`: (b) idle, (c) the two counters agree modulo 8,
(d) and (e) the preamble's course, and the bound under which `& 0xFF` discards nothing. -/
structure DecoderInv (st : State) : Prop where
  idle : st.transferActive = false → DecoderIdle st
  aligned : st.bitsInByte = st.bitWindowIndex.extractLsb' 0 3
  preambleShort : InPreamble st → st.bitWindowIndex.toNat < 8
  preambleTurn : InPreamble st → (st.phase = .expectOne ↔ st.bitsInByte.toNat % 2 = 0)
  preambleBits : InPreamble st → st.pendingByte = preamblePrefix st.bitsInByte
  pendingSmall : st.pendingByte.toNat < 2 ^ st.bitsInByte.toNat

/-- The event port never carries the word 0x100 (R171, R76). -/
def EventsLegal (st : State) : Prop := ∀ e ∈ st.events, e ≠ .byte Config.stopByte

/-- What holds in every state reachable from RESET: the buffers' canonical form, R26, R108, R37, R171. -/
structure BlockInv (st : State) : Prop where
  bufWf : Memory.wf st.buf
  slots : SlotsLegal st.slots
  written : FramesWritten st
  wrIdxIdle : WrIdxIdle st
  decoder : DecoderInv st
  events : EventsLegal st

/-! ## Runs -/

/-- The operations of a list performed in order, stopping at the first fault or refusal (R15, R232). -/
def runOps : List Instr → State → Host.Outcome State Fault Refusal
  | [], st => .next st
  | i :: is, st =>
    match exec i st with
    | .next st' => runOps is st'
    | .fault e => .fault e
    | .refused e => .refused e

/-- The samples a list of operations delivers, in order. -/
def samplesOf : List Instr → List Sample
  | [] => []
  | .sample x :: is => x :: samplesOf is
  | _ :: is => samplesOf is

/-- A stimulus other than RESET: what the producer, the consumer and a late BEGIN_CAPTURE may issue. -/
def Instr.keepsCapture (i : Instr) : Bool := i.isStimulus && decide (i ≠ .reset)

/-- The slots that FRAME_READY events name, in order (R195). -/
def readySlots : List Event → List Slot
  | [] => []
  | .frameReady s :: es => s :: readySlots es
  | _ :: es => readySlots es

/-- The slots whose frames OVERRUN events report dropped, in order (R194). -/
def droppedSlots : List Event → List Slot
  | [] => []
  | .overrun s :: es => s :: droppedSlots es
  | _ :: es => droppedSlots es

/-- The slot of frame number `j` when frame 0 went into slot `s0`: `(s0 + j) mod 2` (R109). -/
def frameSlot (s0 : Slot) (j : Nat) : Slot := if j % 2 = 0 then s0 else s0.other

/-- The elements only the producer's and the host's operations write (R60). -/
def sameProducerSide (a b : State) : Prop :=
  a.wrIdx = b.wrIdx ∧ a.ovrSticky = b.ovrSticky ∧ a.buf = b.buf

/-- The elements only CONSUME and RESET write (R60). -/
def sameConsumerSide (a b : State) : Prop :=
  a.win = b.win ∧ a.frameCnt = b.frameCnt ∧ a.phase = b.phase ∧ a.transferActive = b.transferActive ∧
    a.bitWindowIndex = b.bitWindowIndex ∧ a.pendingByte = b.pendingByte ∧ a.bitsInByte = b.bitsInByte

/-! ## The protocol -/

/-- VOTE once per raw bit, in order (R141). -/
def votes (bits : List Bool) (st : State) : State := bits.foldl State.vote st

/-- The number of 1s in a window of raw bits. -/
def onesIn (window : List Bool) : Nat := window.count true

/-- The bits of a byte, most significant first (R162). -/
def byteBits (b : Byte) : List Bool :=
  [b.getLsbD 7, b.getLsbD 6, b.getLsbD 5, b.getLsbD 4, b.getLsbD 3, b.getLsbD 2, b.getLsbD 1, b.getLsbD 0]

/-- R167, step 1: the phase after it and the event, by the phase before and `sum`. -/
def preambleTable : Phase → Nat → Phase × List Event
  | .expectOne, 5 => (.expectZero, [])
  | .expectOne, _ => (.failed, [.syncLost])
  | .expectZero, 0 => (.expectOne, [])
  | .expectZero, _ => (.failed, [.syncLost])
  | .locked, _ => (.locked, [])
  | .failed, _ => (.failed, [])

/-- R167, step 3 at the 8th bit for a nonzero byte `b`: the phase after it and the event, by the phase
after step 1. -/
def byteTable (b : Byte) : Phase → Phase × List Event
  | .expectOne => (.locked, [])
  | .locked => (.locked, [.byte b])
  | .expectZero => (.expectZero, [])
  | .failed => (.failed, [])

/-- The 40 raw bits of the preamble: five 1s and five 0s, four times over (R172). -/
def preambleRaw : List Bool :=
  (List.replicate 4 (List.replicate 5 true ++ List.replicate 5 false)).flatten

end Sys2Proof
end

