-- ==== Sys2Proof/WellFormed.lean ====
section
/-! DEFINITION. The checks on an instruction and on the configuration that the types leave open:
an EVT.BYTE word carries a byte of 1..255 (spec/30_encoding.md R76, spec/43_decoder.md R171), and a
coefficient is legal (spec/10_state.md R27, spec/41_tone_detector.md R128). -/

namespace Sys2Proof

/-- The operands of a row are ones its rule allows. Slots and samples cannot be out of range by
their types (93_implementation_defined.md I14); the data of BYTE is never 0 (R76, R171). -/
def Instr.wellFormed : Instr → Bool
  | .nop => true
  | .reset => true
  | .beginCapture _ => true
  | .sample _ => true
  | .consume _ => true
  | .evtByte d => d != Config.stopByte
  | .evtSyncLost => true
  | .evtTxEnded => true
  | .evtOverrun _ => true
  | .evtFrameReady _ => true

/-- `−2^15 ≤ coeff ≤ 2^15` (R27, R120). -/
def legalCoeff (c : Int) : Bool := decide (-32768 ≤ c) && decide (c ≤ 32768)

/-- A pair of coefficients that a configuration may hold; any other is refused (R128, I13). -/
def legalTuning (sync payload : Int) : Bool := legalCoeff sync && legalCoeff payload

end Sys2Proof
end

