-- ==== Sys2Proof/Certificates/Slice0/Obligations.lean ====
section
/-! DEFINITION. The statements for the provers, one definition each. Rules R<n> are those of spec/;
"log <n>" is notes/assumptions/<n>.md. -/

open Sys2Proof Sys2Proof.Machine

/-! ## The stimuli and the event rows: what each does, and that it completes -/

/-- R100, whole: NOP's word, that it leaves the state equal and emits nothing in any state, and that
dropping NOPs from a run changes nothing. -/
def Obligations.NopChangesNothing : Prop :=
  encode .nop = .stimulus 0x00000#20 ∧
  (∀ st : State, exec .nop st = .next st) ∧
  ∀ (is js : List Instr) (st : State), runOps (is ++ .nop :: js) st = runOps (is ++ js) st

/-- R220: RESET writes every element but the buffers, emits nothing, shows zeros in the status view, and
changes nothing in the state it leaves. The model's own `input` and `events` are left alone. -/
def Obligations.ResetWritesEverythingButBuffers : Prop :=
  encode .reset = .stimulus 0x10000#20 ∧
  ∀ st : State, ∃ t : State, exec .reset st = .next t ∧
    t = { slots := ⟨.empty, .empty⟩, buf := st.buf, wrIdx := 0#10, ovrSticky := false, win := 0b00000#5,
          frameCnt := 0, phase := .expectOne, transferActive := false, bitWindowIndex := 0#32,
          pendingByte := 0#8, bitsInByte := 0#3, input := st.input, events := st.events } ∧
    (∀ a : BufAddr, memRead t.buf a = memRead st.buf a) ∧
    t.st0 = 0x0000#16 ∧ t.st1 = 0x0000#16 ∧ t.st2 = 0x00#8 ∧ t.st3 = 0x00000000#32 ∧
    exec .reset t = .next t

/-- R101 with its corner cases: BEGIN_CAPTURE takes effect exactly when the slot is EMPTY and the other
is not FILLING; with either slot FILLING, or the named slot FULL, it changes nothing. -/
def Obligations.BeginCaptureGuarded : Prop :=
  (∀ s : Slot, encode (.beginCapture s) = .stimulus (0x20000#20 ||| s.bit.zeroExtend 20)) ∧
  (∀ (s : Slot) (st : State), st.slot s = .empty → st.slot s.other ≠ .filling →
    exec (.beginCapture s) st = .next { st with slots := st.slots.set s .filling, wrIdx := 0#10 }) ∧
  (∀ (s : Slot) (st : State), ¬(st.slot s = .empty ∧ st.slot s.other ≠ .filling) → exec (.beginCapture s) st = .next st) ∧
  (∀ (s k : Slot) (st : State), st.slot k = .filling → exec (.beginCapture s) st = .next st) ∧
  (∀ (s : Slot) (st : State), st.slot s = .full → exec (.beginCapture s) st = .next st)

/-- R102 (a): with no slot FILLING the sample is dropped and nothing changes. -/
def Obligations.SampleWithoutFillingSlotDropped : Prop :=
  ∀ (x : Sample) (st : State), (∀ k : Slot, st.slot k ≠ .filling) → exec (.sample x) st = .next st

/-- R102 (b): off a frame's end SAMPLE stores the sample unchanged at `wr_idx` of the FILLING slot (slot
0 looked at first) and advances `wr_idx`; nothing else changes. The address of word `i` is `i` in slot 0
and `1024 + i` in slot 1 (R52). -/
def Obligations.SampleStoresAndAdvances : Prop :=
  (∀ i : BitVec 10, (bufAddr .slot0 i).toNat = i.toNat ∧ (bufAddr .slot1 i).toNat = 1024 + i.toNat) ∧
  ∀ (x : Sample) (st : State) (f : Slot), st.slot f = .filling → (f = .slot0 ∨ st.slot .slot0 ≠ .filling) → st.wrIdx ≠ 1023#10 →
    ∃ t : State, exec (.sample x) st = .next t ∧
      t = { st with buf := memWrite st.buf (bufAddr f st.wrIdx) x, wrIdx := st.wrIdx + 1#10 } ∧
      memRead t.buf (bufAddr f st.wrIdx) = some x ∧
      ∀ a, a ≠ bufAddr f st.wrIdx → memRead t.buf a = memRead st.buf a

/-- R103: the sample of word 1023 with the other slot EMPTY hands the frame over in the same operation. -/
def Obligations.LastSampleHandsOver : Prop :=
  ∀ (x : Sample) (st : State) (f : Slot), st.slot f = .filling → st.slot f.other = .empty → st.wrIdx = 1023#10 →
    ∃ t : State, exec (.sample x) st = .next t ∧
      t = { st with slots := (st.slots.set f .full).set f.other .filling,
                    buf := memWrite st.buf (bufAddr f 1023#10) x, wrIdx := 0#10,
                    events := st.events ++ [.frameReady f] } ∧
      t.slot f = .full ∧ t.slot f.other = .filling ∧
      memRead t.buf (bufAddr f 1023#10) = some x ∧
      ∀ a, a ≠ bufAddr f 1023#10 → memRead t.buf a = memRead st.buf a

/-- R105: the sample of word 1023 with the other slot FULL drops the older frame whole, sets
`ovr_sticky`, reports OVERRUN and then FRAME_READY, leaves the debouncer and the decoder untouched, and
a CONSUME of the reclaimed slot then does nothing. -/
def Obligations.LastSampleOverrun : Prop :=
  ∀ (x : Sample) (st : State) (f : Slot), st.slot f = .filling → st.slot f.other = .full → st.wrIdx = 1023#10 →
    ∃ t : State, exec (.sample x) st = .next t ∧
      t = { st with slots := (st.slots.set f .full).set f.other .filling,
                    buf := memWrite st.buf (bufAddr f 1023#10) x, wrIdx := 0#10, ovrSticky := true,
                    events := st.events ++ [.overrun f.other, .frameReady f] } ∧
      t.slot f = .full ∧ t.slot f.other = .filling ∧
      memRead t.buf (bufAddr f 1023#10) = some x ∧
      (∀ a, a ≠ bufAddr f 1023#10 → memRead t.buf a = memRead st.buf a) ∧
      exec (.consume f.other) t = .next t

/-- The model's choice (log 6) at the case R103 and I15 call unreachable: a frame that completes while
both slots are FILLING faults. -/
def Obligations.LastSampleBothFillingFaults : Prop :=
  ∀ (x : Sample) (st : State), st.slot .slot0 = .filling → st.slot .slot1 = .filling → st.wrIdx = 1023#10 →
    exec (.sample x) st = .fault .bothSlotsFilling

/-- R104 (a), R57: CONSUME of a slot that is EMPTY or FILLING reads nothing and changes nothing. -/
def Obligations.ConsumeOfUnfinishedSlotDoesNothing : Prop :=
  ∀ (k : Slot) (st : State), st.slot k ≠ .full → exec (.consume k) st = .next st

/-- R104 with R170 and R140: CONSUME of a FULL slot whose 1024 words are `frame`, index 0 first, runs
detector and debouncer on it with the carrier of the phase before it, and frees the slot. -/
def Obligations.ConsumeRunsPipelineOnFrame : Prop :=
  ∀ (k : Slot) (st : State) (frame : List Sample), st.slot k = .full → frame.length = 1024 →
    (∀ i, i < 1024 → memRead st.buf (bufAddr k (BitVec.ofNat 10 i)) = frame[i]?) →
    ∃ t : State, exec (.consume k) st = .next t ∧
      t = { st.vote (detect (toneMag frame
              (if st.phase = .locked then Config.coeffPayload else Config.coeffSync))) with
            slots := st.slots.set k .empty } ∧
      t.slot k = .empty

/-- The model's choice (log 5): CONSUME of a FULL slot with a word that nothing has written faults at
the first such word. R22 and I10 allow it; no run from RESET gets there. -/
def Obligations.ConsumeOfUnwrittenWordFaults : Prop :=
  ∀ (k : Slot) (st : State) (i : BitVec 10), st.slot k = .full → memRead st.buf (bufAddr k i) = none →
    (∀ j : BitVec 10, j < i → (memRead st.buf (bufAddr k j)).isSome = true) →
    exec (.consume k) st = .fault (.unwrittenWord (bufAddr k i))

/-- The event rows (R75, R76): an event word is emitted, which appends it to what the event port has
carried and changes nothing else (R11, R199). That an output row is performed at all is the model's
choice (log 3). -/
def Obligations.EventRowsOnlyEmit : Prop :=
  ∀ st : State,
    (∀ d : Byte, d ≠ 0x00#8 → exec (.evtByte d) st = .next { st with events := st.events ++ [.byte d] }) ∧
    exec .evtSyncLost st = .next { st with events := st.events ++ [.syncLost] } ∧
    exec .evtTxEnded st = .next { st with events := st.events ++ [.txEnded] } ∧
    (∀ s : Slot, exec (.evtOverrun s) st = .next { st with events := st.events ++ [.overrun s] }) ∧
    (∀ s : Slot, exec (.evtFrameReady s) st = .next { st with events := st.events ++ [.frameReady s] })

/-- The model's choice (log 4) on the word 0x100, which R171 says is never emitted: performing it
faults (I9). -/
def Obligations.NeverEmittedByteFaults : Prop :=
  decode (.event 0x100#12) = .ok (.evtByte 0x00#8) ∧
  ∀ st : State, exec (.evtByte 0x00#8) st = .fault .neverEmittedEvent

/-- R171: no operation, in any state, makes the event port carry BYTE with data 0. -/
def Obligations.NoOperationEmitsByteZero : Prop :=
  ∀ (i : Instr) (st t : State), (∀ e ∈ st.events, e ≠ .byte 0x00#8) → exec i st = .next t →
    ∀ e ∈ t.events, e ≠ .byte 0x00#8

/-! ## Frames, ordering and isolation -/

/-- R55, R56: SAMPLE writes at most the one word at `wr_idx` of the FILLING slot and nothing of the
debouncer or the decoder; the slot flags and `ovr_sticky` change only on the last word of a frame. -/
def Obligations.SampleFrame : Prop :=
  ∀ (x : Sample) (st t : State), exec (.sample x) st = .next t →
    (∀ a, (∀ f, st.fillSlot = some f → a ≠ bufAddr f st.wrIdx) → memRead t.buf a = memRead st.buf a) ∧
    sameConsumerSide t st ∧ t.input = st.input ∧
    (st.wrIdx ≠ 1023#10 → t.slots = st.slots ∧ t.ovrSticky = st.ovrSticky ∧ t.events = st.events)

/-- R55, R58, R60, R104 (c): CONSUME writes no buffer word, leaves `wr_idx`, `ovr_sticky`, the other slot
and the input alone, and what it emits goes behind what was emitted before. -/
def Obligations.ConsumeFrame : Prop :=
  ∀ (k : Slot) (st t : State), exec (.consume k) st = .next t →
    (∀ a : BufAddr, memRead t.buf a = memRead st.buf a) ∧ sameProducerSide t st ∧
    t.slot k.other = st.slot k.other ∧ t.input = st.input ∧ ∃ es, t.events = st.events ++ es

/-- R55, R60: NOP, RESET, BEGIN_CAPTURE and the event rows store nothing and take no input; of these only
RESET writes the debouncer, the decoder and `ovr_sticky`. BEGIN_CAPTURE leaves the other slot alone and
writes its own slot's flag and `wr_idx` together or not at all (R101). The stimuli among these emit
nothing; an event row, whose being performed at all is the model's choice (log 3), appends exactly its
own event and changes nothing else (R11, R199). -/
def Obligations.NonStoringFrame : Prop :=
  ∀ (i : Instr) (st t : State), (∀ x, i ≠ .sample x) → (∀ k, i ≠ .consume k) → exec i st = .next t →
    (∀ a : BufAddr, memRead t.buf a = memRead st.buf a) ∧
    (i ≠ .reset → sameConsumerSide t st ∧ t.ovrSticky = st.ovrSticky) ∧
    ((∀ s, i ≠ .beginCapture s) → i ≠ .reset → t.slots = st.slots ∧ t.wrIdx = st.wrIdx) ∧
    (∀ s, i = .beginCapture s → t.slot s.other = st.slot s.other ∧
      ((t.slot s = st.slot s ∧ t.wrIdx = st.wrIdx) ∨
        (st.slot s = .empty ∧ t.slot s = .filling ∧ t.wrIdx = 0#10))) ∧
    t.input = st.input ∧ (i.isStimulus = true → t.events = st.events) ∧
    (∀ d, i = .evtByte d → t.events = st.events ++ [.byte d]) ∧
    (i = .evtSyncLost → t.events = st.events ++ [.syncLost]) ∧
    (i = .evtTxEnded → t.events = st.events ++ [.txEnded]) ∧
    (∀ s, i = .evtOverrun s → t.events = st.events ++ [.overrun s]) ∧
    (∀ s, i = .evtFrameReady s → t.events = st.events ++ [.frameReady s])

/-- R58, R62 (c): while a slot stays FULL, no operation changes a word of it. -/
def Obligations.FullSlotIsImmutable : Prop :=
  ∀ (i : Instr) (st t : State) (k : Slot), exec i st = .next t → st.slot k = .full → t.slot k = .full →
    ∀ j, memRead t.buf (bufAddr k j) = memRead st.buf (bufAddr k j)

/-- R106's table of one slot's transitions, with the events of R103 and R105: a slot changes only by the
operations and under the conditions listed there. -/
def Obligations.SlotTransitionTable : Prop :=
  ∀ (i : Instr) (st t : State) (k : Slot), exec i st = .next t → t.slot k ≠ st.slot k →
    (i = .reset ∧ t.slot k = .empty) ∨
    (i = .beginCapture k ∧ st.slot k = .empty ∧ t.slot k = .filling ∧ st.slot k.other ≠ .filling) ∨
    (i = .consume k ∧ st.slot k = .full ∧ t.slot k = .empty) ∨
    ((∃ x, i = .sample x) ∧ st.wrIdx = 1023#10 ∧
      ((st.slot k = .filling ∧ t.slot k = .full ∧ Event.frameReady k ∈ t.events.drop st.events.length) ∨
       (st.slot k = .empty ∧ t.slot k = .filling ∧ st.slot k.other = .filling ∧ t.slot k.other = .full) ∨
       (st.slot k = .full ∧ t.slot k = .filling ∧ st.slot k.other = .filling ∧ t.slot k.other = .full ∧
         Event.overrun k ∈ t.events.drop st.events.length)))

/-- R26 (b), R101 (b): once a slot is FILLING, no stimulus but RESET leaves the block without one. -/
def Obligations.CaptureNeverStops : Prop :=
  ∀ (i : Instr) (st t : State), i.keepsCapture = true → (∃ k, st.slot k = .filling) → exec i st = .next t →
    ∃ k, t.slot k = .filling

/-- R76's "which operation can emit what", with R168 for CONSUME (its premise is the decoder invariant,
which rules out states no run reaches). -/
def Obligations.EventsPerOperation : Prop :=
  ∀ (i : Instr) (st t : State), exec i st = .next t → i.isStimulus = true →
    ∃ es, t.events = st.events ++ es ∧
      ((∀ k, i ≠ .consume k) → (∀ x, i ≠ .sample x) → es = []) ∧
      ((∃ x, i = .sample x) → es = [] ∨ (∃ f : Slot, es = [.frameReady f]) ∨
        ∃ f : Slot, es = [.overrun f.other, .frameReady f]) ∧
      ((∃ k, i = .consume k) → DecoderInv st →
        es = [] ∨ (∃ d, d ≠ 0x00#8 ∧ es = [.byte d]) ∨ es = [.syncLost] ∨ es = [.txEnded])

/-- R227 (b): off a frame's end, a SAMPLE and a CONSUME give the same outcome in either order. -/
def Obligations.SampleCommutesWithConsume : Prop :=
  ∀ (st : State) (x : Sample) (k : Slot), st.wrIdx ≠ 1023#10 →
    runOps [.sample x, .consume k] st = runOps [.consume k, .sample x] st

/-- R198, R228: at a frame's end with the other slot FULL and written, CONSUME first loses no frame, and
SAMPLE first is an overrun after which the CONSUME is empty. -/
def Obligations.RaceAtFrameEnd : Prop :=
  ∀ (st : State) (x : Sample) (k : Slot), st.slot k = .full → st.slot k.other = .filling → st.wrIdx = 1023#10 →
    (∀ i, Written st.buf k i) →
    (∃ a es, runOps [.consume k, .sample x] st = .next a ∧ a.slot k = .filling ∧
      a.slot k.other = .full ∧ a.ovrSticky = st.ovrSticky ∧
      a.events = st.events ++ es ++ [.frameReady k.other] ∧ ∀ s : Slot, Event.overrun s ∉ es) ∧
    ∃ b, runOps [.sample x, .consume k] st = .next b ∧ b.slot k = .filling ∧
      b.slot k.other = .full ∧ b.ovrSticky = true ∧ sameConsumerSide b st ∧
      b.events = st.events ++ [.overrun k, .frameReady k.other]

/-- R82, R104 (d): the two words of POLL may come in either order, at most one slot being FULL. -/
def Obligations.PollOrderIsIrrelevant : Prop :=
  ∀ st : State, SlotsLegal st.slots →
    runOps [.consume .slot0, .consume .slot1] st = runOps [.consume .slot1, .consume .slot0] st

/-- R170, R60: what CONSUME does to the debouncer and the decoder, and what it emits, depends on the
frame in the FULL slot and on the debouncer's and decoder's own elements only. -/
def Obligations.ConsumeDependsOnFrameOnly : Prop :=
  ∀ (k : Slot) (a b a' : State), a.slot k = b.slot k → readFrame a.buf k = readFrame b.buf k → sameConsumerSide a b →
    exec (.consume k) a = .next a' →
    ∃ (b' : State) (es : List Event), exec (.consume k) b = .next b' ∧ sameConsumerSide a' b' ∧
      a'.events = a.events ++ es ∧ b'.events = b.events ++ es

/-! ## The scheduler over runs -/

/-- R222, R102 (a), R101 (a): from any state, RESET, any number of samples that are then discarded, and
BEGIN_CAPTURE of either slot start capture in that slot at word 0, with no event and no buffer word
written. -/
def Obligations.BootStartsCapture : Prop :=
  ∀ (st : State) (xs : List Sample) (s : Slot),
    ∃ t : State, runOps ([.reset] ++ xs.map .sample ++ [.beginCapture s]) st = .next t ∧
      t.slot s = .filling ∧ t.slot s.other = .empty ∧ t.wrIdx = 0#10 ∧ t.buf = st.buf ∧
      t.events = st.events ∧ DecoderIdle t

/-- R109, whole: from the BEGIN_CAPTURE that starts capture, after `c` SAMPLEs among any other stimuli but
RESET, `wr_idx` is `c mod N`, `c / N` frames have completed, frame `j` went into slot `(s0 + j) mod 2`,
and the next sample goes into the slot whose turn it is, with or without overruns. -/
def Obligations.SampleCountLaw : Prop :=
  ∀ (st0 : State) (s0 : Slot) (st1 : State) (ops : List Instr) (t : State), st0.slots = ⟨.empty, .empty⟩ → exec (.beginCapture s0) st0 = .next st1 →
    (∀ i ∈ ops, i.keepsCapture = true) → runOps ops st1 = .next t →
    t.wrIdx.toNat = (samplesOf ops).length % 1024 ∧
    t.fillSlot = some (frameSlot s0 ((samplesOf ops).length / 1024)) ∧
    ∃ es, t.events = st1.events ++ es ∧
      readySlots es = (List.range ((samplesOf ops).length / 1024)).map (frameSlot s0)

/-- R108, R105 (d): after any such run a FULL slot holds the newest complete frame, which is exactly the
`N` consecutive samples of the input stream that completed last. -/
def Obligations.FullSlotHoldsNewestFrame : Prop :=
  ∀ (st0 : State) (s0 : Slot) (st1 : State) (ops : List Instr) (t : State) (k : Slot),
    st0.slots = ⟨.empty, .empty⟩ → exec (.beginCapture s0) st0 = .next st1 →
    (∀ i ∈ ops, i.keepsCapture = true) → runOps ops st1 = .next t → t.slot k = .full →
    1024 ≤ (samplesOf ops).length ∧ k = frameSlot s0 ((samplesOf ops).length / 1024 - 1) ∧
    readFrame t.buf k =
      .ok (((samplesOf ops).drop (((samplesOf ops).length / 1024 - 1) * 1024)).take 1024)

/-! ## The Tone Detector -/

/-- R13: `>>` is the floor of the division by `2^n`, `<<` the product with it. -/
def Obligations.ShiftsAreFloorAndProduct : Prop :=
  (∀ (v : Int) (n : Nat), shr v n = ⌊(v : ℚ) / 2 ^ n⌋) ∧ (∀ (v : Int) (n : Nat), shl v n = v * 2 ^ n) ∧
  shr (-1) 4 = -1 ∧ shr (-17) 4 = -2 ∧ shl (-1) 6 = -64

/-- R125: DETECT is the signed comparison with 100, on every integer. -/
def Obligations.DetectThreshold : Prop :=
  (∀ m : Int, detect m = true ↔ m ≥ 100) ∧
  detect 99 = false ∧ detect 100 = true ∧ detect 101 = true ∧ detect 0 = false ∧
  detect (-64) = false ∧ detect 64 = false ∧ detect 128 = true

/-- R129: a frame whose samples all lie in 0..15, the silent frame among them, has every scaled sample 0,
leaves `s1` and `s2` at 0, has power and magnitude 0 and is not detected, with any coefficient. -/
def Obligations.SilenceIsRejected : Prop :=
  ∀ (frame : List Sample) (coeff : Int), (∀ x ∈ frame, 0 ≤ sampleValue x ∧ sampleValue x ≤ 15) →
    (∀ x ∈ frame, shr (sampleValue x) 4 = 0) ∧ filterFrame frame coeff = ⟨0, 0⟩ ∧ powerOf coeff (filterFrame frame coeff) = 0 ∧
    toneMag frame coeff = 0 ∧ detect (toneMag frame coeff) = false

/-- R127, R128: for every frame and legal coefficient the power is not negative, the magnitude is 64
times `floor(power / 32768)`, never 99 or 100, and the frame is detected exactly when the power reaches
65536; 64 and 128 are reached by frames. -/
def Obligations.MagnitudeIsMultipleOf64 : Prop :=
  (∀ (frame : List Sample) (coeff : Int), legalCoeff coeff = true →
    0 ≤ powerOf coeff (filterFrame frame coeff) ∧
    toneMag frame coeff = 64 * (powerOf coeff (filterFrame frame coeff) / 32768) ∧
    0 ≤ toneMag frame coeff ∧ toneMag frame coeff ≠ 99 ∧ toneMag frame coeff ≠ 100 ∧
    (detect (toneMag frame coeff) = true ↔ 65536 ≤ powerOf coeff (filterFrame frame coeff)) ∧
    (detect (toneMag frame coeff) = true ↔ 2 ≤ powerOf coeff (filterFrame frame coeff) / 32768)) ∧
  (∃ frame : List Sample, frame.length = 1024 ∧ toneMag frame Config.coeffSync = 64) ∧
  ∃ frame : List Sample, frame.length = 1024 ∧ toneMag frame Config.coeffSync = 128

/-- R124's bounds for every legal coefficient and every frame or part of a frame: 32 bits hold `s1` and
`s2`, 48 the product, 64 the power and the magnitude. -/
def Obligations.DetectorWidthsSuffice : Prop :=
  ∀ (frame : List Sample) (coeff : Int), frame.length ≤ 1024 → legalCoeff coeff = true →
    let r := filterFrame frame coeff
    (∀ x : Sample, -2048 ≤ shr (sampleValue x) 4 ∧ shr (sampleValue x) 4 ≤ 2047) ∧
    |r.s1| ≤ 1075315200 ∧ |r.s2| ≤ 1075315200 ∧ |r.s1 * coeff| < 2 ^ 46 ∧
    |scaledProduct r.s1 coeff| ≤ 2 * |r.s1| ∧
    0 ≤ powerOf coeff r ∧ powerOf coeff r ≤ 4625211117404160000 ∧
    0 ≤ toneMag frame coeff ∧ toneMag frame coeff < 2 ^ 54

/-- R121, R122: the coefficients are the formula's, rounded to the nearest integer, for the bins of the
two carriers, and for the reference bins the rule lists. -/
def Obligations.CoefficientsAreTheFormulas : Prop :=
  let coeffOfBin : Nat → Int := fun k => round (2 * Real.cos (2 * Real.pi * k / 1024) * 2 ^ 14)
  Config.kSync * Config.sampleRate = Config.fSync * Config.frameLen ∧
  Config.kPayload * Config.sampleRate = Config.fPayload * Config.frameLen ∧
  coeffOfBin Config.kSync = Config.coeffSync ∧ coeffOfBin Config.kPayload = Config.coeffPayload ∧
  BitVec.ofInt 16 Config.coeffSync = 0x93DC#16 ∧ BitVec.ofInt 16 Config.coeffPayload = 0x9D0E#16 ∧
  coeffOfBin 0 = 32768 ∧ coeffOfBin 1 = 32767 ∧ coeffOfBin 128 = 23170 ∧ coeffOfBin 256 = 0 ∧
  coeffOfBin 512 = -32768

/-- R140: the carrier is the payload's exactly while the phase is LOCKED, on the phase left by the CONSUME
before this frame. -/
def Obligations.CarrierFollowsPhase : Prop :=
  (∀ (st : State) (frame : List Sample), st.phase = .locked →
    st.stepFrame frame = st.vote (detect (toneMag frame (-25330))) ∧ st.carrierSel = 1#1) ∧
  ∀ (st : State) (frame : List Sample), st.phase ≠ .locked →
    st.stepFrame frame = st.vote (detect (toneMag frame (-27684))) ∧ st.carrierSel = 0#1

/-! ## The debouncer -/

/-- R143: while idle, frames with raw bit 0 write only `win`, which stays 0 if it was, however many pass. -/
def Obligations.IdleFramesAdvanceNothing : Prop :=
  ∀ (st : State) (n : Nat), st.transferActive = false →
    ∃ w, votes (List.replicate n false) st = { st with win := w } ∧ (st.win = 0b00000#5 → w = 0b00000#5)

/-- R142, R148: after any five frames the window holds exactly their raw bits, newest in bit 0, whatever
it held before. -/
def Obligations.WindowHoldsLastFive : Prop :=
  ∀ (st : State) (b1 b2 b3 b4 b5 : Bool),
    let w := (votes [b1, b2, b3, b4, b5] st).win
    w.getLsbD 4 = b1 ∧ w.getLsbD 3 = b2 ∧ w.getLsbD 2 = b3 ∧ w.getLsbD 1 = b4 ∧ w.getLsbD 0 = b5

/-- R144, R145, R147: five frames make one bit window, the activating frame being the first when the
block is idle; DECODE then gets the number of 1s among the five, and not before. -/
def Obligations.FiveFramesMakeOneWindow : Prop :=
  ∀ (st : State) (b1 b2 b3 b4 b5 : Bool), st.frameCnt = 0 → (st.transferActive = false → b1 = true) →
    (∃ w, votes [b1, b2, b3, b4] st = { st with win := w, transferActive := true, frameCnt := 4 }) ∧
    ∃ w, votes [b1, b2, b3, b4, b5] st =
      ({ st with win := w, transferActive := true, frameCnt := 0 } : State).decodeWindow
        (onesIn [b1, b2, b3, b4, b5])

/-! ## The decoder -/

/-- R160 to R165 and R167: DECODE follows the two tables of R167 in every state and for every `sum`,
reachable or not; SYNC_LOST comes before TX_ENDED or BYTE; on a stop byte the five elements are reset;
nothing else changes. -/
def Obligations.DecodeFollowsTables : Prop :=
  ∀ (st : State) (sum : Nat), sum ≤ 5 →
    let step1 := preambleTable st.phase sum
    let b : Byte := BitVec.ofNat 8 (2 * st.pendingByte.toNat + if sum > 2 then 1 else 0)
    st.decodeWindow sum =
      if st.bitsInByte = 7#3 then
        if b = 0#8 then
          { st with phase := .expectOne, transferActive := false, bitWindowIndex := 0#32,
                    pendingByte := 0#8, bitsInByte := 0#3,
                    events := st.events ++ step1.2 ++ [.txEnded] }
        else
          { st with phase := (byteTable b step1.1).1, bitWindowIndex := st.bitWindowIndex + 1#32,
                    pendingByte := 0#8, bitsInByte := 0#3,
                    events := st.events ++ step1.2 ++ (byteTable b step1.1).2 }
      else
        { st with phase := step1.1, bitWindowIndex := st.bitWindowIndex + 1#32, pendingByte := b,
                  bitsInByte := st.bitsInByte + 1#3, events := st.events ++ step1.2 }

/-- R168: a DECODE emits at most one event, in every state that meets the decoder invariant. -/
def Obligations.DecodeEmitsAtMostOneEvent : Prop :=
  ∀ (st : State) (sum : Nat), sum ≤ 5 → DecoderInv st → st.transferActive = true →
    ∃ es, (st.decodeWindow sum).events = st.events ++ es ∧ es.length ≤ 1

/-- R169: LOCKED is entered only at the eighth window since activation, on the byte 0xAA, with no failure
before it. -/
def Obligations.LockMeansPreambleByte : Prop :=
  ∀ (st : State) (sum : Nat), sum ≤ 5 → DecoderInv st → st.phase ≠ .locked →
    (st.decodeWindow sum).phase = .locked →
    st.phase = .expectZero ∧ sum = 0 ∧ st.bitWindowIndex = 7#32 ∧ st.bitsInByte = 7#3 ∧
      st.pendingByte = 0x55#8 ∧ (st.decodeWindow sum).bitWindowIndex = 8#32

/-- R166, R192: in FAILED a window is counted and its bit shifted in, a completed nonzero byte discarded,
with no event and no re-lock, until an aligned zero byte, which emits TX_ENDED and restores the initial
decoder state. -/
def Obligations.FailedUntilStopByte : Prop :=
  ∀ (st : State) (sum : Nat), sum ≤ 5 → st.phase = .failed →
    let t := st.decodeWindow sum
    if st.bitsInByte = 7#3 ∧ st.pendingByte &&& 0x7F#8 = 0#8 ∧ sum ≤ 2 then
      t.phase = .expectOne ∧ t.transferActive = false ∧ t.bitWindowIndex = 0#32 ∧
        t.pendingByte = 0#8 ∧ t.bitsInByte = 0#3 ∧ t.events = st.events ++ [.txEnded]
    else
      t.phase = .failed ∧ t.events = st.events ∧ t.bitWindowIndex = st.bitWindowIndex + 1#32 ∧
        t.transferActive = st.transferActive ∧ t.bitsInByte = st.bitsInByte + 1#3 ∧
        t.pendingByte = if st.bitsInByte = 7#3 then 0#8
          else BitVec.ofNat 8 (2 * st.pendingByte.toNat + if sum > 2 then 1 else 0)

/-- R172 with UAC's preamble, payload and stop scenarios: from idle, the preamble's 40 raw bits lock the
block without an event; then, for ANY nonzero payload bytes and ANY windows of five raw bits whose
majorities spell them and a stop byte, most significant bit first, the block emits exactly those bytes and
TX_ENDED and is idle again. -/
def Obligations.TransmissionIsDecoded : Prop :=
  ∀ (st : State) (payload : List Byte) (windows : List (List Bool)), DecoderIdle st →
    (∀ b ∈ payload, b ≠ 0x00#8) → (∀ w ∈ windows, w.length = 5) →
    windows.map (fun w => decide (onesIn w > 2)) = (payload ++ [0x00#8]).flatMap byteBits →
    let locked := votes preambleRaw st
    let t := votes windows.flatten locked
    locked.phase = .locked ∧ locked.bitWindowIndex = 8#32 ∧ locked.events = st.events ∧
    DecoderIdle t ∧ t.events = st.events ++ payload.map .byte ++ [.txEnded] ∧ sameProducerSide t st

/-- R148, and UAC's idempotence (R172): two idle blocks that may differ in the stale bits of `win`, and in
the scheduler, emit the same events for the same raw bits and stay equal in the decoder. -/
def Obligations.StaleWindowBitsNeverMatter : Prop :=
  ∀ (a b : State) (bits : List Bool), DecoderIdle a → DecoderIdle b →
    ∃ es, (votes bits a).events = a.events ++ es ∧ (votes bits b).events = b.events ++ es ∧
      (votes bits a).phase = (votes bits b).phase ∧
      (votes bits a).transferActive = (votes bits b).transferActive ∧
      (votes bits a).bitWindowIndex = (votes bits b).bitWindowIndex ∧
      (votes bits a).pendingByte = (votes bits b).pendingByte ∧
      (votes bits a).bitsInByte = (votes bits b).bitsInByte ∧
      (votes bits a).frameCnt = (votes bits b).frameCnt

/-! ## Invariants, totality, the step -/

/-- R39, R221: the state after reset meets the invariant; it lists no buffer word (log 5), and nothing is
waiting or emitted (log 1, log 2). -/
def Obligations.ResetMeetsInvariant : Prop :=
  BlockInv State.reset ∧ State.reset.slots = ⟨.empty, .empty⟩ ∧ State.reset.wrIdx = 0#10 ∧
    State.reset.ovrSticky = false ∧ State.reset.win = 0b00000#5 ∧ DecoderIdle State.reset ∧
    (∀ a, memRead State.reset.buf a = none) ∧ State.reset.input = [] ∧ State.reset.events = []

/-- R26, R37, R108, R171 and the buffers' canonical form are kept by every step, whatever word the input
holds. -/
def Obligations.StepKeepsInvariant : Prop :=
  ∀ s s' : State, BlockInv s → step s = .next s' → BlockInv s'

/-- R201: in every state that meets the invariant every stimulus completes; no operation faults or is
refused. -/
def Obligations.EveryStimulusCompletes : Prop :=
  ∀ (i : Instr) (s : State), BlockInv s → i.isStimulus = true → ∃ t : State, exec i s = .next t

/-- The model's choice (log 1; log 3 for event words) of how the operations of R15 and R71 follow one
another: a step performs the operation that the first word of the model's own `input` spells, on the
state with that word taken. -/
def Obligations.StepRunsDecodedInstruction : Prop :=
  ∀ (s : State) (w : PortWord) (rest : List PortWord) (i : Instr), s.input = w :: rest → decode w = .ok i → step s = exec i { s with input := rest }

/-- The model's choices (log 1, log 7): with no word waiting no port fires and nothing changes (R100); a
reserved word is refused, as R74 asks of a model. -/
def Obligations.StepWithoutOperation : Prop :=
  (∀ s : State, s.input = [] → step s = .next s) ∧
  ∀ (s : State) (w : PortWord) (rest : List PortWord) (e : DecodeError), s.input = w :: rest → decode w = .error e → step s = .refused (.reservedWord e)

/-- The model's interface to the host (log 1, log 16; log 3 for event words): the word a table row's bits
stand for is the next one performed, and nothing else is disturbed. -/
def Obligations.FetchedTableWordRuns : Prop :=
  ∀ (s : State) (nbits w : Nat) (i : Instr), decodeTableWord nbits w = some i → step (s.withFetchWord nbits w) = exec i s

/-! ## Encodings -/

/-- Every instruction, with every operand its encoding admits, is decoded from its own word. -/
def Obligations.DecodeOfEncode : Prop := ∀ i : Instr, decode (encode i) = .ok i

/-- Every word that is decoded is the encoding of what it decodes to: no bit is dropped (R71 to R76). -/
def Obligations.EncodeOfDecode : Prop := ∀ (w : PortWord) (i : Instr), decode w = .ok i → encode i = w

/-- R72, whole: a 20-bit word spells an operation exactly when it matches that operation's row. -/
def Obligations.StimulusWordsOfTable : Prop :=
  ∀ (w : StimulusWord) (i : Instr), decode (.stimulus w) = .ok i ↔
    (i = .nop ∧ w = 0x00000#20) ∨ (i = .reset ∧ w = 0x10000#20) ∨
    (∃ s : Slot, i = .beginCapture s ∧ w = 0x20000#20 ||| s.bit.zeroExtend 20) ∨
    (∃ x : Sample, i = .sample x ∧ w = 0x30000#20 ||| x.zeroExtend 20) ∨
    ∃ s : Slot, i = .consume s ∧ w = 0x40000#20 ||| s.bit.zeroExtend 20

/-- R74: the words that spell no operation are exactly those the rule lists, and a step that meets one
is refused by name, which is the model's part of the rule (log 7). -/
def Obligations.ReservedStimulusWordsRefused : Prop :=
  ∀ (w : StimulusWord) (s : State) (rest : List PortWord), s.input = .stimulus w :: rest →
    ((∃ e, step s = .refused (.reservedWord e)) ↔
      5 ≤ w.toNat / 65536 ∨ (w.toNat / 65536 ≤ 1 ∧ w.toNat % 65536 ≠ 0) ∨
        ((w.toNat / 65536 = 2 ∨ w.toNat / 65536 = 4) ∧ w.toNat % 65536 / 2 ≠ 0))

/-- R75, R76: an event's word is its kind and its data, and distinct events have distinct words. -/
def Obligations.EventWordsOfTable : Prop :=
  (∀ d, (Event.byte d).word = 0x1#4 ++ d) ∧ Event.syncLost.word = 0x200#12 ∧
  Event.txEnded.word = 0x300#12 ∧ (Event.overrun .slot0).word = 0x400#12 ∧
  (Event.overrun .slot1).word = 0x401#12 ∧ (Event.frameReady .slot0).word = 0x500#12 ∧
  (Event.frameReady .slot1).word = 0x501#12 ∧ ∀ a b : Event, a.word = b.word → a = b

/-- Words written out from R72 and R76 decode to the operations they stand for. -/
def Obligations.TableWordsDecode : Prop :=
  decodeTableWord 24 0x00000 = some .nop ∧ decodeTableWord 24 0x10000 = some .reset ∧
  decodeTableWord 24 0x20001 = some (.beginCapture .slot1) ∧
  decodeTableWord 24 0x3FC18 = some (.sample (BitVec.ofInt 16 (-1000))) ∧
  decodeTableWord 24 0x40000 = some (.consume .slot0) ∧
  decodeTableWord 16 0x148 = some (.evtByte 0x48#8) ∧ decodeTableWord 16 0x200 = some .evtSyncLost ∧
  decodeTableWord 16 0x300 = some .evtTxEnded ∧ decodeTableWord 16 0x401 = some (.evtOverrun .slot1) ∧
  decodeTableWord 16 0x500 = some (.evtFrameReady .slot0)

/-- R77 and R78's codes one by one, R36's `carrier_sel`, and R79: every field of the status view reads the
element it names, and the bits shown as 0 are 0. -/
def Obligations.StatusViewFields : Prop :=
  SlotState.empty.code = 0b00#2 ∧ SlotState.filling.code = 0b01#2 ∧ SlotState.full.code = 0b10#2 ∧
  Phase.expectOne.code = 0b00#2 ∧ Phase.expectZero.code = 0b01#2 ∧ Phase.locked.code = 0b10#2 ∧
  Phase.failed.code = 0b11#2 ∧
  (∀ st : State, st.carrierSel = if st.phase = .locked then 1#1 else 0#1) ∧
  ∀ st : State,
    st.st0.extractLsb' 0 2 = st.slots.slot0.code ∧ st.st0.extractLsb' 2 2 = st.slots.slot1.code ∧
    (st.st0.getLsbD 4 = st.ovrSticky) ∧ st.st0.getLsbD 5 = false ∧ st.st0.extractLsb' 6 10 = st.wrIdx ∧
    st.st1.extractLsb' 0 2 = st.phase.code ∧ st.st1.getLsbD 2 = st.transferActive ∧
    st.st1.extractLsb' 3 1 = st.carrierSel ∧ (st.st1.extractLsb' 4 3).toNat = st.frameCnt.val ∧
    st.st1.extractLsb' 7 3 = st.bitsInByte ∧ st.st1.extractLsb' 10 5 = st.win ∧
    st.st1.getLsbD 15 = false ∧ st.st2 = st.pendingByte ∧ st.st3 = st.bitWindowIndex ∧
    st.resetBlock.st0 = 0x0000#16 ∧ st.resetBlock.st1 = 0x0000#16 ∧ st.resetBlock.st2 = 0x00#8 ∧
    st.resetBlock.st3 = 0x00000000#32

/-! ## TONE_MAG in numbers -/

/-- R123, whole, in the numbers of its text, for every coefficient and every frame or part of a frame:
the recurrence starts at 0 and 0 and takes one sample after another, index 0 first; the product
`s1 × coeff` is formed in full and then divided by 2^14, in the recurrence and in the power; the magnitude
is 64 times the floor of the power by 2^15. Then the rule's example, its frame written by R82's formula.
Division of integers by a positive number rounds toward minus infinity here, as R13's `>>`. -/
def Obligations.ToneMagFollowsRecurrence : Prop :=
  let square : List Sample := (List.range 1024).map (fun n =>
    if (420 * n) % 1024 < 256 ∨ 768 ≤ (420 * n) % 1024 then BitVec.ofInt 16 1000 else BitVec.ofInt 16 (-1000))
  (∀ c : Int, filterFrame [] c = ⟨0, 0⟩) ∧
  (∀ (frame : List Sample) (x : Sample) (c : Int),
    filterFrame (frame ++ [x]) c =
      ⟨x.toInt / 16 + (filterFrame frame c).s1 * c / 16384 - (filterFrame frame c).s2,
        (filterFrame frame c).s1⟩) ∧
  (∀ (c : Int) (r : Recurrence),
    powerOf c r = r.s1 * r.s1 + r.s2 * r.s2 - (r.s1 * c / 16384) * r.s2) ∧
  (∀ (frame : List Sample) (c : Int),
    toneMag frame c = 64 * (powerOf c (filterFrame frame c) / 32768)) ∧
  (BitVec.ofInt 16 1000).toInt / 16 = 62 ∧ (BitVec.ofInt 16 (-1000)).toInt / 16 = -63 ∧
  (List.range 8).map (fun i => (filterFrame (square.take (i + 1)) (-27684)).s1) =
    [62, -168, 283, -249, 74, 185, -450, 637] ∧
  filterFrame square (-27684) = ⟨581, -41231⟩ ∧
  powerOf (-27684) (filterFrame square (-27684)) = 1659844080 ∧ toneMag square (-27684) = 3241856
end

