-- ==== Sys2Proof/Laws/Detector.lean ====
section
/-! SUPPORT. The recurrence of TONE_MAG one sample at a time (spec/41_tone_detector.md R123). -/

namespace Sys2Proof.Machine

@[simp] theorem filterFrame_nil (coeff : Int) : filterFrame [] coeff = ⟨0, 0⟩ := rfl

/-- One more sample at the end of a frame. -/
theorem filterFrame_concat (frame : List Sample) (x : Sample) (coeff : Int) :
    filterFrame (frame ++ [x]) coeff = filterSample coeff (filterFrame frame coeff) x := by
  simp [filterFrame]

/-- A frame in two parts: the recurrence goes on from where the first part left it. -/
theorem filterFrame_append (a b : List Sample) (coeff : Int) :
    filterFrame (a ++ b) coeff = b.foldl (filterSample coeff) (filterFrame a coeff) :=
  List.foldl_append

@[simp] theorem filterSample_s2 (coeff : Int) (r : Recurrence) (x : Sample) :
    (filterSample coeff r x).s2 = r.s1 := rfl

@[simp] theorem filterSample_s1 (coeff : Int) (r : Recurrence) (x : Sample) :
    (filterSample coeff r x).s1 = shr (sampleValue x) 4 + scaledProduct r.s1 coeff - r.s2 := rfl

@[simp] theorem shr_zero (n : Nat) : shr 0 n = 0 := by simp [shr]

@[simp] theorem scaledProduct_zero (coeff : Int) : scaledProduct 0 coeff = 0 := by
  simp [scaledProduct]

/-- A sample is a number of 16 bits (R120). -/
theorem sampleValue_range (x : Sample) : -32768 ≤ sampleValue x ∧ sampleValue x ≤ 32767 := by
  have h1 := BitVec.le_toInt x
  have h2 := BitVec.toInt_lt (x := x)
  simp at h1 h2
  exact ⟨h1, by unfold sampleValue; omega⟩

end Sys2Proof.Machine
end

