-- ==== Sys2Proof/Laws/State.lean ====
section
/-! SUPPORT. One lemma per field per update of State, each true by rfl. -/

namespace Sys2Proof.Machine

/-! ## setSlot -/

@[simp] theorem State.setSlot_slots (st : State) (s : Slot) (v : SlotState) : (st.setSlot s v).slots = st.slots.set s v := rfl
@[simp] theorem State.setSlot_buf (st : State) (s : Slot) (v : SlotState) : (st.setSlot s v).buf = st.buf := rfl
@[simp] theorem State.setSlot_wrIdx (st : State) (s : Slot) (v : SlotState) : (st.setSlot s v).wrIdx = st.wrIdx := rfl
@[simp] theorem State.setSlot_ovrSticky (st : State) (s : Slot) (v : SlotState) : (st.setSlot s v).ovrSticky = st.ovrSticky := rfl
@[simp] theorem State.setSlot_win (st : State) (s : Slot) (v : SlotState) : (st.setSlot s v).win = st.win := rfl
@[simp] theorem State.setSlot_frameCnt (st : State) (s : Slot) (v : SlotState) : (st.setSlot s v).frameCnt = st.frameCnt := rfl
@[simp] theorem State.setSlot_phase (st : State) (s : Slot) (v : SlotState) : (st.setSlot s v).phase = st.phase := rfl
@[simp] theorem State.setSlot_transferActive (st : State) (s : Slot) (v : SlotState) : (st.setSlot s v).transferActive = st.transferActive := rfl
@[simp] theorem State.setSlot_bitWindowIndex (st : State) (s : Slot) (v : SlotState) : (st.setSlot s v).bitWindowIndex = st.bitWindowIndex := rfl
@[simp] theorem State.setSlot_pendingByte (st : State) (s : Slot) (v : SlotState) : (st.setSlot s v).pendingByte = st.pendingByte := rfl
@[simp] theorem State.setSlot_bitsInByte (st : State) (s : Slot) (v : SlotState) : (st.setSlot s v).bitsInByte = st.bitsInByte := rfl
@[simp] theorem State.setSlot_input (st : State) (s : Slot) (v : SlotState) : (st.setSlot s v).input = st.input := rfl
@[simp] theorem State.setSlot_events (st : State) (s : Slot) (v : SlotState) : (st.setSlot s v).events = st.events := rfl

/-! ## setWrIdx -/

@[simp] theorem State.setWrIdx_slots (st : State) (i : BitVec 10) : (st.setWrIdx i).slots = st.slots := rfl
@[simp] theorem State.setWrIdx_buf (st : State) (i : BitVec 10) : (st.setWrIdx i).buf = st.buf := rfl
@[simp] theorem State.setWrIdx_wrIdx (st : State) (i : BitVec 10) : (st.setWrIdx i).wrIdx = i := rfl
@[simp] theorem State.setWrIdx_ovrSticky (st : State) (i : BitVec 10) : (st.setWrIdx i).ovrSticky = st.ovrSticky := rfl
@[simp] theorem State.setWrIdx_win (st : State) (i : BitVec 10) : (st.setWrIdx i).win = st.win := rfl
@[simp] theorem State.setWrIdx_frameCnt (st : State) (i : BitVec 10) : (st.setWrIdx i).frameCnt = st.frameCnt := rfl
@[simp] theorem State.setWrIdx_phase (st : State) (i : BitVec 10) : (st.setWrIdx i).phase = st.phase := rfl
@[simp] theorem State.setWrIdx_transferActive (st : State) (i : BitVec 10) : (st.setWrIdx i).transferActive = st.transferActive := rfl
@[simp] theorem State.setWrIdx_bitWindowIndex (st : State) (i : BitVec 10) : (st.setWrIdx i).bitWindowIndex = st.bitWindowIndex := rfl
@[simp] theorem State.setWrIdx_pendingByte (st : State) (i : BitVec 10) : (st.setWrIdx i).pendingByte = st.pendingByte := rfl
@[simp] theorem State.setWrIdx_bitsInByte (st : State) (i : BitVec 10) : (st.setWrIdx i).bitsInByte = st.bitsInByte := rfl
@[simp] theorem State.setWrIdx_input (st : State) (i : BitVec 10) : (st.setWrIdx i).input = st.input := rfl
@[simp] theorem State.setWrIdx_events (st : State) (i : BitVec 10) : (st.setWrIdx i).events = st.events := rfl

/-! ## storeSample -/

@[simp] theorem State.storeSample_slots (st : State) (s : Slot) (x : Sample) : (st.storeSample s x).slots = st.slots := rfl
@[simp] theorem State.storeSample_buf (st : State) (s : Slot) (x : Sample) : (st.storeSample s x).buf = memWrite st.buf (bufAddr s st.wrIdx) x := rfl
@[simp] theorem State.storeSample_wrIdx (st : State) (s : Slot) (x : Sample) : (st.storeSample s x).wrIdx = st.wrIdx := rfl
@[simp] theorem State.storeSample_ovrSticky (st : State) (s : Slot) (x : Sample) : (st.storeSample s x).ovrSticky = st.ovrSticky := rfl
@[simp] theorem State.storeSample_win (st : State) (s : Slot) (x : Sample) : (st.storeSample s x).win = st.win := rfl
@[simp] theorem State.storeSample_frameCnt (st : State) (s : Slot) (x : Sample) : (st.storeSample s x).frameCnt = st.frameCnt := rfl
@[simp] theorem State.storeSample_phase (st : State) (s : Slot) (x : Sample) : (st.storeSample s x).phase = st.phase := rfl
@[simp] theorem State.storeSample_transferActive (st : State) (s : Slot) (x : Sample) : (st.storeSample s x).transferActive = st.transferActive := rfl
@[simp] theorem State.storeSample_bitWindowIndex (st : State) (s : Slot) (x : Sample) : (st.storeSample s x).bitWindowIndex = st.bitWindowIndex := rfl
@[simp] theorem State.storeSample_pendingByte (st : State) (s : Slot) (x : Sample) : (st.storeSample s x).pendingByte = st.pendingByte := rfl
@[simp] theorem State.storeSample_bitsInByte (st : State) (s : Slot) (x : Sample) : (st.storeSample s x).bitsInByte = st.bitsInByte := rfl
@[simp] theorem State.storeSample_input (st : State) (s : Slot) (x : Sample) : (st.storeSample s x).input = st.input := rfl
@[simp] theorem State.storeSample_events (st : State) (s : Slot) (x : Sample) : (st.storeSample s x).events = st.events := rfl

/-! ## emit -/

@[simp] theorem State.emit_slots (st : State) (e : Event) : (st.emit e).slots = st.slots := rfl
@[simp] theorem State.emit_buf (st : State) (e : Event) : (st.emit e).buf = st.buf := rfl
@[simp] theorem State.emit_wrIdx (st : State) (e : Event) : (st.emit e).wrIdx = st.wrIdx := rfl
@[simp] theorem State.emit_ovrSticky (st : State) (e : Event) : (st.emit e).ovrSticky = st.ovrSticky := rfl
@[simp] theorem State.emit_win (st : State) (e : Event) : (st.emit e).win = st.win := rfl
@[simp] theorem State.emit_frameCnt (st : State) (e : Event) : (st.emit e).frameCnt = st.frameCnt := rfl
@[simp] theorem State.emit_phase (st : State) (e : Event) : (st.emit e).phase = st.phase := rfl
@[simp] theorem State.emit_transferActive (st : State) (e : Event) : (st.emit e).transferActive = st.transferActive := rfl
@[simp] theorem State.emit_bitWindowIndex (st : State) (e : Event) : (st.emit e).bitWindowIndex = st.bitWindowIndex := rfl
@[simp] theorem State.emit_pendingByte (st : State) (e : Event) : (st.emit e).pendingByte = st.pendingByte := rfl
@[simp] theorem State.emit_bitsInByte (st : State) (e : Event) : (st.emit e).bitsInByte = st.bitsInByte := rfl
@[simp] theorem State.emit_input (st : State) (e : Event) : (st.emit e).input = st.input := rfl
@[simp] theorem State.emit_events (st : State) (e : Event) : (st.emit e).events = st.events ++ [e] := rfl

/-! ## resetBlock -/

@[simp] theorem State.resetBlock_slots (st : State) : (st.resetBlock).slots = ⟨.empty, .empty⟩ := rfl
@[simp] theorem State.resetBlock_buf (st : State) : (st.resetBlock).buf = st.buf := rfl
@[simp] theorem State.resetBlock_wrIdx (st : State) : (st.resetBlock).wrIdx = 0#10 := rfl
@[simp] theorem State.resetBlock_ovrSticky (st : State) : (st.resetBlock).ovrSticky = false := rfl
@[simp] theorem State.resetBlock_win (st : State) : (st.resetBlock).win = 0#5 := rfl
@[simp] theorem State.resetBlock_frameCnt (st : State) : (st.resetBlock).frameCnt = 0 := rfl
@[simp] theorem State.resetBlock_phase (st : State) : (st.resetBlock).phase = .expectOne := rfl
@[simp] theorem State.resetBlock_transferActive (st : State) : (st.resetBlock).transferActive = false := rfl
@[simp] theorem State.resetBlock_bitWindowIndex (st : State) : (st.resetBlock).bitWindowIndex = 0#32 := rfl
@[simp] theorem State.resetBlock_pendingByte (st : State) : (st.resetBlock).pendingByte = 0#8 := rfl
@[simp] theorem State.resetBlock_bitsInByte (st : State) : (st.resetBlock).bitsInByte = 0#3 := rfl
@[simp] theorem State.resetBlock_input (st : State) : (st.resetBlock).input = st.input := rfl
@[simp] theorem State.resetBlock_events (st : State) : (st.resetBlock).events = st.events := rfl

/-! ## stopReset -/

@[simp] theorem State.stopReset_slots (st : State) : (st.stopReset).slots = st.slots := rfl
@[simp] theorem State.stopReset_buf (st : State) : (st.stopReset).buf = st.buf := rfl
@[simp] theorem State.stopReset_wrIdx (st : State) : (st.stopReset).wrIdx = st.wrIdx := rfl
@[simp] theorem State.stopReset_ovrSticky (st : State) : (st.stopReset).ovrSticky = st.ovrSticky := rfl
@[simp] theorem State.stopReset_win (st : State) : (st.stopReset).win = st.win := rfl
@[simp] theorem State.stopReset_frameCnt (st : State) : (st.stopReset).frameCnt = st.frameCnt := rfl
@[simp] theorem State.stopReset_phase (st : State) : (st.stopReset).phase = .expectOne := rfl
@[simp] theorem State.stopReset_transferActive (st : State) : (st.stopReset).transferActive = false := rfl
@[simp] theorem State.stopReset_bitWindowIndex (st : State) : (st.stopReset).bitWindowIndex = 0#32 := rfl
@[simp] theorem State.stopReset_pendingByte (st : State) : (st.stopReset).pendingByte = 0#8 := rfl
@[simp] theorem State.stopReset_bitsInByte (st : State) : (st.stopReset).bitsInByte = 0#3 := rfl
@[simp] theorem State.stopReset_input (st : State) : (st.stopReset).input = st.input := rfl
@[simp] theorem State.stopReset_events (st : State) : (st.stopReset).events = st.events := rfl

/-! ## overrunReclaim -/

@[simp] theorem State.overrunReclaim_slots (st : State) (f o : Slot) : (st.overrunReclaim f o).slots = st.slots.set o .filling := rfl
@[simp] theorem State.overrunReclaim_buf (st : State) (f o : Slot) : (st.overrunReclaim f o).buf = st.buf := rfl
@[simp] theorem State.overrunReclaim_wrIdx (st : State) (f o : Slot) : (st.overrunReclaim f o).wrIdx = st.wrIdx := rfl
@[simp] theorem State.overrunReclaim_ovrSticky (st : State) (f o : Slot) : (st.overrunReclaim f o).ovrSticky = true := rfl
@[simp] theorem State.overrunReclaim_win (st : State) (f o : Slot) : (st.overrunReclaim f o).win = st.win := rfl
@[simp] theorem State.overrunReclaim_frameCnt (st : State) (f o : Slot) : (st.overrunReclaim f o).frameCnt = st.frameCnt := rfl
@[simp] theorem State.overrunReclaim_phase (st : State) (f o : Slot) : (st.overrunReclaim f o).phase = st.phase := rfl
@[simp] theorem State.overrunReclaim_transferActive (st : State) (f o : Slot) : (st.overrunReclaim f o).transferActive = st.transferActive := rfl
@[simp] theorem State.overrunReclaim_bitWindowIndex (st : State) (f o : Slot) : (st.overrunReclaim f o).bitWindowIndex = st.bitWindowIndex := rfl
@[simp] theorem State.overrunReclaim_pendingByte (st : State) (f o : Slot) : (st.overrunReclaim f o).pendingByte = st.pendingByte := rfl
@[simp] theorem State.overrunReclaim_bitsInByte (st : State) (f o : Slot) : (st.overrunReclaim f o).bitsInByte = st.bitsInByte := rfl
@[simp] theorem State.overrunReclaim_input (st : State) (f o : Slot) : (st.overrunReclaim f o).input = st.input := rfl
@[simp] theorem State.overrunReclaim_events (st : State) (f o : Slot) : (st.overrunReclaim f o).events = st.events ++ [.overrun o] ++ [.frameReady f] := rfl

/-! ## loseSync -/

@[simp] theorem State.loseSync_slots (st : State) : (st.loseSync).slots = st.slots := rfl
@[simp] theorem State.loseSync_buf (st : State) : (st.loseSync).buf = st.buf := rfl
@[simp] theorem State.loseSync_wrIdx (st : State) : (st.loseSync).wrIdx = st.wrIdx := rfl
@[simp] theorem State.loseSync_ovrSticky (st : State) : (st.loseSync).ovrSticky = st.ovrSticky := rfl
@[simp] theorem State.loseSync_win (st : State) : (st.loseSync).win = st.win := rfl
@[simp] theorem State.loseSync_frameCnt (st : State) : (st.loseSync).frameCnt = st.frameCnt := rfl
@[simp] theorem State.loseSync_phase (st : State) : (st.loseSync).phase = .failed := rfl
@[simp] theorem State.loseSync_transferActive (st : State) : (st.loseSync).transferActive = st.transferActive := rfl
@[simp] theorem State.loseSync_bitWindowIndex (st : State) : (st.loseSync).bitWindowIndex = st.bitWindowIndex := rfl
@[simp] theorem State.loseSync_pendingByte (st : State) : (st.loseSync).pendingByte = st.pendingByte := rfl
@[simp] theorem State.loseSync_bitsInByte (st : State) : (st.loseSync).bitsInByte = st.bitsInByte := rfl
@[simp] theorem State.loseSync_input (st : State) : (st.loseSync).input = st.input := rfl
@[simp] theorem State.loseSync_events (st : State) : (st.loseSync).events = st.events ++ [.syncLost] := rfl

/-! ## accumulateBit -/

@[simp] theorem State.accumulateBit_slots (st : State) (b : Bool) : (st.accumulateBit b).slots = st.slots := rfl
@[simp] theorem State.accumulateBit_buf (st : State) (b : Bool) : (st.accumulateBit b).buf = st.buf := rfl
@[simp] theorem State.accumulateBit_wrIdx (st : State) (b : Bool) : (st.accumulateBit b).wrIdx = st.wrIdx := rfl
@[simp] theorem State.accumulateBit_ovrSticky (st : State) (b : Bool) : (st.accumulateBit b).ovrSticky = st.ovrSticky := rfl
@[simp] theorem State.accumulateBit_win (st : State) (b : Bool) : (st.accumulateBit b).win = st.win := rfl
@[simp] theorem State.accumulateBit_frameCnt (st : State) (b : Bool) : (st.accumulateBit b).frameCnt = st.frameCnt := rfl
@[simp] theorem State.accumulateBit_phase (st : State) (b : Bool) : (st.accumulateBit b).phase = st.phase := rfl
@[simp] theorem State.accumulateBit_transferActive (st : State) (b : Bool) : (st.accumulateBit b).transferActive = st.transferActive := rfl
@[simp] theorem State.accumulateBit_bitWindowIndex (st : State) (b : Bool) : (st.accumulateBit b).bitWindowIndex = st.bitWindowIndex := rfl
@[simp] theorem State.accumulateBit_pendingByte (st : State) (b : Bool) : (st.accumulateBit b).pendingByte = (st.pendingByte <<< 1) ||| (bitOf b).zeroExtend 8 := rfl
@[simp] theorem State.accumulateBit_bitsInByte (st : State) (b : Bool) : (st.accumulateBit b).bitsInByte = st.bitsInByte + 1#3 := rfl
@[simp] theorem State.accumulateBit_input (st : State) (b : Bool) : (st.accumulateBit b).input = st.input := rfl
@[simp] theorem State.accumulateBit_events (st : State) (b : Bool) : (st.accumulateBit b).events = st.events := rfl

/-! ## countWindow -/

@[simp] theorem State.countWindow_slots (st : State) : (st.countWindow).slots = st.slots := rfl
@[simp] theorem State.countWindow_buf (st : State) : (st.countWindow).buf = st.buf := rfl
@[simp] theorem State.countWindow_wrIdx (st : State) : (st.countWindow).wrIdx = st.wrIdx := rfl
@[simp] theorem State.countWindow_ovrSticky (st : State) : (st.countWindow).ovrSticky = st.ovrSticky := rfl
@[simp] theorem State.countWindow_win (st : State) : (st.countWindow).win = st.win := rfl
@[simp] theorem State.countWindow_frameCnt (st : State) : (st.countWindow).frameCnt = st.frameCnt := rfl
@[simp] theorem State.countWindow_phase (st : State) : (st.countWindow).phase = st.phase := rfl
@[simp] theorem State.countWindow_transferActive (st : State) : (st.countWindow).transferActive = st.transferActive := rfl
@[simp] theorem State.countWindow_bitWindowIndex (st : State) : (st.countWindow).bitWindowIndex = st.bitWindowIndex + 1#32 := rfl
@[simp] theorem State.countWindow_pendingByte (st : State) : (st.countWindow).pendingByte = st.pendingByte := rfl
@[simp] theorem State.countWindow_bitsInByte (st : State) : (st.countWindow).bitsInByte = st.bitsInByte := rfl
@[simp] theorem State.countWindow_input (st : State) : (st.countWindow).input = st.input := rfl
@[simp] theorem State.countWindow_events (st : State) : (st.countWindow).events = st.events := rfl

/-! ## shiftWin -/

@[simp] theorem State.shiftWin_slots (st : State) (raw : Bool) : (st.shiftWin raw).slots = st.slots := rfl
@[simp] theorem State.shiftWin_buf (st : State) (raw : Bool) : (st.shiftWin raw).buf = st.buf := rfl
@[simp] theorem State.shiftWin_wrIdx (st : State) (raw : Bool) : (st.shiftWin raw).wrIdx = st.wrIdx := rfl
@[simp] theorem State.shiftWin_ovrSticky (st : State) (raw : Bool) : (st.shiftWin raw).ovrSticky = st.ovrSticky := rfl
@[simp] theorem State.shiftWin_win (st : State) (raw : Bool) : (st.shiftWin raw).win = shiftWindow st.win raw := rfl
@[simp] theorem State.shiftWin_frameCnt (st : State) (raw : Bool) : (st.shiftWin raw).frameCnt = st.frameCnt := rfl
@[simp] theorem State.shiftWin_phase (st : State) (raw : Bool) : (st.shiftWin raw).phase = st.phase := rfl
@[simp] theorem State.shiftWin_transferActive (st : State) (raw : Bool) : (st.shiftWin raw).transferActive = st.transferActive := rfl
@[simp] theorem State.shiftWin_bitWindowIndex (st : State) (raw : Bool) : (st.shiftWin raw).bitWindowIndex = st.bitWindowIndex := rfl
@[simp] theorem State.shiftWin_pendingByte (st : State) (raw : Bool) : (st.shiftWin raw).pendingByte = st.pendingByte := rfl
@[simp] theorem State.shiftWin_bitsInByte (st : State) (raw : Bool) : (st.shiftWin raw).bitsInByte = st.bitsInByte := rfl
@[simp] theorem State.shiftWin_input (st : State) (raw : Bool) : (st.shiftWin raw).input = st.input := rfl
@[simp] theorem State.shiftWin_events (st : State) (raw : Bool) : (st.shiftWin raw).events = st.events := rfl

/-! ## activate -/

@[simp] theorem State.activate_slots (st : State) : (st.activate).slots = st.slots := rfl
@[simp] theorem State.activate_buf (st : State) : (st.activate).buf = st.buf := rfl
@[simp] theorem State.activate_wrIdx (st : State) : (st.activate).wrIdx = st.wrIdx := rfl
@[simp] theorem State.activate_ovrSticky (st : State) : (st.activate).ovrSticky = st.ovrSticky := rfl
@[simp] theorem State.activate_win (st : State) : (st.activate).win = st.win := rfl
@[simp] theorem State.activate_frameCnt (st : State) : (st.activate).frameCnt = 1 := rfl
@[simp] theorem State.activate_phase (st : State) : (st.activate).phase = st.phase := rfl
@[simp] theorem State.activate_transferActive (st : State) : (st.activate).transferActive = true := rfl
@[simp] theorem State.activate_bitWindowIndex (st : State) : (st.activate).bitWindowIndex = st.bitWindowIndex := rfl
@[simp] theorem State.activate_pendingByte (st : State) : (st.activate).pendingByte = st.pendingByte := rfl
@[simp] theorem State.activate_bitsInByte (st : State) : (st.activate).bitsInByte = st.bitsInByte := rfl
@[simp] theorem State.activate_input (st : State) : (st.activate).input = st.input := rfl
@[simp] theorem State.activate_events (st : State) : (st.activate).events = st.events := rfl

/-! ## withFetchWord -/

@[simp] theorem State.withFetchWord_slots (st : State) (n w : Nat) : (st.withFetchWord n w).slots = st.slots := rfl
@[simp] theorem State.withFetchWord_buf (st : State) (n w : Nat) : (st.withFetchWord n w).buf = st.buf := rfl
@[simp] theorem State.withFetchWord_wrIdx (st : State) (n w : Nat) : (st.withFetchWord n w).wrIdx = st.wrIdx := rfl
@[simp] theorem State.withFetchWord_ovrSticky (st : State) (n w : Nat) : (st.withFetchWord n w).ovrSticky = st.ovrSticky := rfl
@[simp] theorem State.withFetchWord_win (st : State) (n w : Nat) : (st.withFetchWord n w).win = st.win := rfl
@[simp] theorem State.withFetchWord_frameCnt (st : State) (n w : Nat) : (st.withFetchWord n w).frameCnt = st.frameCnt := rfl
@[simp] theorem State.withFetchWord_phase (st : State) (n w : Nat) : (st.withFetchWord n w).phase = st.phase := rfl
@[simp] theorem State.withFetchWord_transferActive (st : State) (n w : Nat) : (st.withFetchWord n w).transferActive = st.transferActive := rfl
@[simp] theorem State.withFetchWord_bitWindowIndex (st : State) (n w : Nat) : (st.withFetchWord n w).bitWindowIndex = st.bitWindowIndex := rfl
@[simp] theorem State.withFetchWord_pendingByte (st : State) (n w : Nat) : (st.withFetchWord n w).pendingByte = st.pendingByte := rfl
@[simp] theorem State.withFetchWord_bitsInByte (st : State) (n w : Nat) : (st.withFetchWord n w).bitsInByte = st.bitsInByte := rfl
@[simp] theorem State.withFetchWord_input (st : State) (n w : Nat) : (st.withFetchWord n w).input = portWordOfTable n w :: st.input := rfl
@[simp] theorem State.withFetchWord_events (st : State) (n w : Nat) : (st.withFetchWord n w).events = st.events := rfl

/-! ## Slots -/

@[simp] theorem Slot.other_other (s : Slot) : s.other.other = s := by cases s <;> rfl

theorem Slot.other_ne (s : Slot) : s.other ≠ s := by cases s <;> decide

theorem Slot.ne_other (s : Slot) : s ≠ s.other := by cases s <;> decide

theorem Slot.eq_or_eq_other (s t : Slot) : t = s ∨ t = s.other := by cases s <;> cases t <;> decide

@[simp] theorem SlotStates.get_set_same (t : SlotStates) (s : Slot) (v : SlotState) :
    (t.set s v).get s = v := by cases s <;> rfl

@[simp] theorem SlotStates.get_set_other (t : SlotStates) (s : Slot) (v : SlotState) :
    (t.set s v).get s.other = t.get s.other := by cases s <;> rfl

@[simp] theorem SlotStates.get_other_set (t : SlotStates) (s : Slot) (v : SlotState) :
    (t.set s.other v).get s = t.get s := by cases s <;> rfl

theorem SlotStates.get_set_of_ne (t : SlotStates) {s k : Slot} (h : k ≠ s) (v : SlotState) :
    (t.set s v).get k = t.get k := by
  cases s <;> cases k <;> first | rfl | exact absurd rfl h

@[simp] theorem State.slot_setSlot_same (st : State) (s : Slot) (v : SlotState) :
    (st.setSlot s v).slot s = v := SlotStates.get_set_same _ _ _

@[simp] theorem State.slot_setSlot_other (st : State) (s : Slot) (v : SlotState) :
    (st.setSlot s v).slot s.other = st.slot s.other := SlotStates.get_set_other _ _ _

@[simp] theorem State.slot_setSlot_of_other (st : State) (s : Slot) (v : SlotState) :
    (st.setSlot s.other v).slot s = st.slot s := SlotStates.get_other_set _ _ _

theorem State.slot_setSlot_of_ne (st : State) {s k : Slot} (h : k ≠ s) (v : SlotState) :
    (st.setSlot s v).slot k = st.slot k := SlotStates.get_set_of_ne _ h _

theorem State.slot_congr {a b : State} (h : a.slots = b.slots) (s : Slot) : a.slot s = b.slot s := by
  rw [State.slot, State.slot, h]

/-- What `fillSlot` answers: the FILLING slot, slot 0 looked at first (R25, R102). -/
theorem State.fillSlot_eq_some {st : State} {f : Slot} :
    st.fillSlot = some f ↔ st.slot f = .filling ∧ (f = .slot0 ∨ st.slot .slot0 ≠ .filling) := by
  unfold State.fillSlot State.slot SlotStates.get
  cases f <;> by_cases h0 : st.slots.slot0 = .filling <;> by_cases h1 : st.slots.slot1 = .filling <;>
    simp [h0, h1]

theorem State.fillSlot_eq_none {st : State} :
    st.fillSlot = none ↔ ∀ f, st.slot f ≠ .filling := by
  constructor
  · intro h f hf
    unfold State.fillSlot at h
    cases f <;> simp only [State.slot, SlotStates.get] at hf <;> rw [hf] at h
    · simp at h
    · split at h <;> simp at h
  · intro h
    have h0 := h .slot0
    have h1 := h .slot1
    simp [State.slot, SlotStates.get] at h0 h1
    simp [State.fillSlot, h0, h1]

/-- `fillSlot` reads the slot flags only. -/
theorem State.fillSlot_congr {a b : State} (h : a.slots = b.slots) : a.fillSlot = b.fillSlot := by
  unfold State.fillSlot
  rw [h]

end Sys2Proof.Machine
end

