-- ==== Sys2Proof/Laws/Memory.lean ====
section
/-! SUPPORT. The laws of the frame buffers: what a read gives after a write, that a write keeps the
canonical form, that slots and indices give different addresses, and what CONSUME's reads answer. -/

namespace Sys2Proof.Machine

/-! ## One word -/

theorem lookupCell_insertCell_same (m : Memory) (k : Nat) (v : Sample) :
    lookupCell (insertCell m k v) k = some v := by
  induction m with
  | nil => simp [insertCell, lookupCell]
  | cons c m ih =>
    obtain ⟨a, w⟩ := c
    unfold insertCell
    split
    · simp [lookupCell]
    · split
      · simp [lookupCell]
      · rename_i h1 h2
        simp [lookupCell, Ne.symm h2, ih]

theorem lookupCell_insertCell_other (m : Memory) {k j : Nat} (v : Sample) (h : j ≠ k) :
    lookupCell (insertCell m k v) j = lookupCell m j := by
  induction m with
  | nil => simp [insertCell, lookupCell, Ne.symm h]
  | cons c m ih =>
    obtain ⟨a, w⟩ := c
    unfold insertCell
    split
    · simp [lookupCell, Ne.symm h]
    · split
      · rename_i h1 h2
        subst h2
        simp [lookupCell, Ne.symm h]
      · by_cases ha : a = j
        · simp [lookupCell, ha]
        · simp [lookupCell, ha, ih]

@[simp] theorem memRead_memWrite_same (m : Memory) (a : BufAddr) (v : Sample) :
    memRead (memWrite m a v) a = some v := lookupCell_insertCell_same _ _ _

theorem memRead_memWrite_other (m : Memory) {a b : BufAddr} (v : Sample) (h : b ≠ a) :
    memRead (memWrite m a v) b = memRead m b :=
  lookupCell_insertCell_other m v (fun e => h (BitVec.eq_of_toNat_eq e))

/-! ## The canonical form -/

theorem mem_insertCell {m : Memory} {k : Nat} {v : Sample} {c : Nat × Sample}
    (h : c ∈ insertCell m k v) : c = (k, v) ∨ c ∈ m := by
  induction m with
  | nil => simpa [insertCell] using h
  | cons d m ih =>
    obtain ⟨a, w⟩ := d
    unfold insertCell at h
    split at h
    · simpa using h
    · split at h
      · rcases List.mem_cons.mp h with h | h
        · exact .inl h
        · exact .inr (List.mem_cons_of_mem _ h)
      · rcases List.mem_cons.mp h with h | h
        · exact .inr (h ▸ List.mem_cons_self)
        · exact (ih h).imp id (List.mem_cons_of_mem _)

theorem insertCell_pairwise {m : Memory} (k : Nat) (v : Sample)
    (h : m.Pairwise (fun c d => c.1 < d.1)) :
    (insertCell m k v).Pairwise (fun c d => c.1 < d.1) := by
  induction m with
  | nil => simp [insertCell]
  | cons c m ih =>
    obtain ⟨a, w⟩ := c
    obtain ⟨hc, hm⟩ := List.pairwise_cons.mp h
    unfold insertCell
    split
    · rename_i hk
      refine List.pairwise_cons.mpr ⟨fun d hd => ?_, h⟩
      rcases List.mem_cons.mp hd with rfl | hd
      · exact hk
      · exact lt_trans hk (hc d hd)
    · split
      · rename_i hk
        exact List.pairwise_cons.mpr ⟨fun d hd => hk ▸ hc d hd, hm⟩
      · rename_i h1 h2
        refine List.pairwise_cons.mpr ⟨fun d hd => ?_, ih hm⟩
        rcases mem_insertCell hd with rfl | hd
        · exact lt_of_le_of_ne (Nat.le_of_not_lt h1) (Ne.symm h2)
        · exact hc d hd

/-- Every memory operation that writes keeps the canonical form. -/
theorem memWrite_wf {m : Memory} (h : Memory.wf m) (a : BufAddr) (v : Sample) :
    Memory.wf (memWrite m a v) := by
  refine ⟨insertCell_pairwise _ _ h.1, fun c hc => ?_⟩
  rcases mem_insertCell hc with rfl | hc
  · exact a.isLt
  · exact h.2 c hc

theorem reset_buf_wf : Memory.wf State.reset.buf := by simp [Memory.wf, State.reset]

/-! ## Addresses -/

theorem bufAddr_toNat (s : Slot) (i : BitVec 10) :
    (bufAddr s i).toNat = s.bit.toNat * 1024 + i.toNat := by
  have hi := i.isLt
  rw [bufAddr, BitVec.toNat_append, ← Nat.shiftLeft_add_eq_or_of_lt hi, Nat.shiftLeft_eq]

theorem bufAddr_inj {s t : Slot} {i j : BitVec 10} (h : bufAddr s i = bufAddr t j) : s = t ∧ i = j := by
  have hi := i.isLt
  have hj := j.isLt
  have := congrArg BitVec.toNat h
  rw [bufAddr_toNat, bufAddr_toNat] at this
  cases s <;> cases t <;> simp [Slot.bit] at this ⊢ <;> first | omega | exact BitVec.eq_of_toNat_eq (by omega)

theorem bufAddr_ne_of_slot {s t : Slot} (h : s ≠ t) (i j : BitVec 10) : bufAddr s i ≠ bufAddr t j :=
  fun e => h (bufAddr_inj e).1

theorem memRead_storeSample_same (st : State) (s : Slot) (x : Sample) :
    memRead (st.storeSample s x).buf (bufAddr s st.wrIdx) = some x := memRead_memWrite_same _ _ _

theorem memRead_storeSample_other (st : State) (s : Slot) (x : Sample) {a : BufAddr}
    (h : a ≠ bufAddr s st.wrIdx) : memRead (st.storeSample s x).buf a = memRead st.buf a :=
  memRead_memWrite_other _ _ h

/-! ## The reads of CONSUME -/

/-- What a list of reads answers, when it answers words: one for each index, each the word listed. -/
theorem readWords_eq_ok {m : Memory} {s : Slot} {is : List Nat} {vs : List Sample} :
    readWords m s is = .ok vs ↔
      is.map (fun i => memRead m (bufAddr s (BitVec.ofNat 10 i))) = vs.map some := by
  induction is generalizing vs with
  | nil => cases vs <;> simp [readWords]
  | cons i is ih =>
    unfold readWords
    split
    · rename_i h
      cases vs <;> simp [h]
    · rename_i v h
      split
      · rename_i a ha
        cases vs with
        | nil => simp
        | cons u us =>
          have := mt (ih (vs := us)).mpr (by rw [ha]; simp)
          simp [h]
          intro _ hc
          exact this (by simpa using hc)
      · rename_i ws hw
        have hws := ih.mp hw
        cases vs with
        | nil => simp
        | cons u us =>
          simp only [Except.ok.injEq, List.cons.injEq, List.map_cons, h, Option.some.injEq]
          refine and_congr Iff.rfl ?_
          rw [hws]
          exact ⟨fun e => e ▸ rfl, fun e => (List.map_injective_iff.mpr (Option.some_injective _)) e⟩

/-- A read fails only at an index whose word nothing has written. -/
theorem readWords_error {m : Memory} {s : Slot} {is : List Nat} {a : BufAddr}
    (h : readWords m s is = .error a) :
    ∃ i ∈ is, a = bufAddr s (BitVec.ofNat 10 i) ∧ memRead m a = none := by
  induction is with
  | nil => simp [readWords] at h
  | cons i is ih =>
    unfold readWords at h
    split at h
    · rename_i hn
      simp only [Except.error.injEq] at h
      exact ⟨i, List.mem_cons_self, h.symm, h ▸ hn⟩
    · split at h
      · rename_i b hb
        simp only [Except.error.injEq] at h
        subst h
        obtain ⟨j, hj, hh⟩ := ih hb
        exact ⟨j, List.mem_cons_of_mem _ hj, hh⟩
      · simp at h

/-- The reads depend on the words of the slot only. -/
theorem readWords_congr {m m' : Memory} {s : Slot}
    (h : ∀ i, memRead m (bufAddr s i) = memRead m' (bufAddr s i)) (is : List Nat) :
    readWords m s is = readWords m' s is := by
  induction is with
  | nil => rfl
  | cons i is ih => simp only [readWords, h, ih]

theorem readFrame_congr {m m' : Memory} {s : Slot}
    (h : ∀ i, memRead m (bufAddr s i) = memRead m' (bufAddr s i)) : readFrame m s = readFrame m' s :=
  readWords_congr h _

/-- A slot all of whose words are written is read whole. -/
theorem readFrame_of_written {m : Memory} {s : Slot} (h : ∀ i, Written m s i) :
    ∃ frame, readFrame m s = .ok frame := by
  cases hr : readFrame m s with
  | ok frame => exact ⟨frame, rfl⟩
  | error a =>
    obtain ⟨i, -, rfl, hn⟩ := readWords_error hr
    have := h (BitVec.ofNat 10 i)
    rw [Written, hn] at this
    simp at this

theorem readFrame_length {m : Memory} {s : Slot} {frame : List Sample}
    (h : readFrame m s = .ok frame) : frame.length = Config.frameLen := by
  have := congrArg List.length (readWords_eq_ok.mp h)
  simpa using this.symm

/-- Word `i` of a frame that was read is the word at its address. -/
theorem readFrame_get {m : Memory} {s : Slot} {frame : List Sample} (h : readFrame m s = .ok frame)
    (i : Nat) (hi : i < Config.frameLen) :
    memRead m (bufAddr s (BitVec.ofNat 10 i)) = frame[i]? := by
  have h2 := congrArg (fun l => l[i]?) (readWords_eq_ok.mp h)
  simp only [List.getElem?_map, List.getElem?_range hi, Option.map_some] at h2
  have hl : i < frame.length := by rw [readFrame_length h]; exact hi
  rw [List.getElem?_eq_getElem hl] at h2 ⊢
  simpa using h2

end Sys2Proof.Machine
end

