-- ==== Sys2Proof/Laws/PerInstr.lean ====
section
/-! SUPPORT. A statement for all instructions, made one constructor at a time: a row is encoded in the
word space of its format (spec/30_encoding.md R71, R75), a stimulus as a 20-bit word and an event row
as a 12-bit one. -/

namespace Sys2Proof.Laws.WordSpace

/-- The word space of the row's encoding is the one of its format. -/
def Statement (i : Instr) : Prop :=
  (i.isStimulus = true ∧ ∃ w, encode i = .stimulus w) ∨ (i.isStimulus = false ∧ ∃ w, encode i = .event w)

theorem nop : Statement .nop := .inl ⟨rfl, _, rfl⟩
theorem reset : Statement .reset := .inl ⟨rfl, _, rfl⟩
theorem beginCapture (s : Slot) : Statement (.beginCapture s) := .inl ⟨rfl, _, rfl⟩
theorem sample (x : Sample) : Statement (.sample x) := .inl ⟨rfl, _, rfl⟩
theorem consume (s : Slot) : Statement (.consume s) := .inl ⟨rfl, _, rfl⟩
theorem evtByte (d : Byte) : Statement (.evtByte d) := .inr ⟨rfl, _, rfl⟩
theorem evtSyncLost : Statement .evtSyncLost := .inr ⟨rfl, _, rfl⟩
theorem evtTxEnded : Statement .evtTxEnded := .inr ⟨rfl, _, rfl⟩
theorem evtOverrun (s : Slot) : Statement (.evtOverrun s) := .inr ⟨rfl, _, rfl⟩
theorem evtFrameReady (s : Slot) : Statement (.evtFrameReady s) := .inr ⟨rfl, _, rfl⟩

end Sys2Proof.Laws.WordSpace
end

