-- ==== Sys2Proof/Laws/Pipeline.lean ====
section
/-! SUPPORT. What VOTE, DECODE and STEP leave unchanged (spec/43_decoder.md R165, R170, spec/20_memory.md
R60): the scheduler's elements and the input, and for DECODE the window and the frame counter as well;
what the scheduler's hand-off can do; and what a fetch answers. -/

namespace Sys2Proof.Machine

/-- What a stage of the debouncer or the decoder never writes. -/
def SameScheduler (a b : State) : Prop :=
  a.slots = b.slots ∧ a.buf = b.buf ∧ a.wrIdx = b.wrIdx ∧ a.ovrSticky = b.ovrSticky ∧ a.input = b.input

theorem SameScheduler.refl (a : State) : SameScheduler a a := ⟨rfl, rfl, rfl, rfl, rfl⟩

theorem SameScheduler.trans {a b c : State} (h : SameScheduler a b) (k : SameScheduler b c) :
    SameScheduler a c :=
  ⟨h.1.trans k.1, h.2.1.trans k.2.1, h.2.2.1.trans k.2.2.1, h.2.2.2.1.trans k.2.2.2.1,
    h.2.2.2.2.trans k.2.2.2.2⟩

theorem SameScheduler.slot {a b : State} (h : SameScheduler a b) (s : Slot) : a.slot s = b.slot s :=
  State.slot_congr h.1 s

/-- What DECODE never writes besides: the window and the frame counter (R165). -/
def SameWindow (a b : State) : Prop := a.win = b.win ∧ a.frameCnt = b.frameCnt

theorem checkPreamble_frame (st : State) (sum : Nat) :
    SameScheduler (st.checkPreamble sum) st ∧ SameWindow (st.checkPreamble sum) st ∧
      (st.checkPreamble sum).transferActive = st.transferActive ∧
      (st.checkPreamble sum).pendingByte = st.pendingByte ∧
      (st.checkPreamble sum).bitsInByte = st.bitsInByte ∧
      (st.checkPreamble sum).bitWindowIndex = st.bitWindowIndex := by
  unfold State.checkPreamble
  split <;> (try split) <;> simp [SameScheduler, SameWindow]

theorem byteBoundary_frame (st : State) :
    SameScheduler st.byteBoundary st ∧ SameWindow st.byteBoundary st ∧
      st.byteBoundary.transferActive = st.transferActive ∧
      st.byteBoundary.bitsInByte = st.bitsInByte ∧
      st.byteBoundary.bitWindowIndex = st.bitWindowIndex := by
  unfold State.byteBoundary State.deliverByte
  repeat' split
  all_goals simp [SameScheduler, SameWindow]

/-- DECODE leaves the scheduler, the window, the frame counter and the input alone. -/
theorem decodeWindow_frame (st : State) (sum : Nat) :
    SameScheduler (st.decodeWindow sum) st ∧ SameWindow (st.decodeWindow sum) st := by
  obtain ⟨hc, hw, -⟩ := checkPreamble_frame st sum
  obtain ⟨hb, hv, -⟩ :=
    byteBoundary_frame ((st.checkPreamble sum).accumulateBit (majorityBit sum))
  have hs := hb.trans hc
  have ht := hv.1.trans hw.1
  have hu := hv.2.trans hw.2
  unfold State.decodeWindow
  dsimp only
  split
  · exact ⟨hs, ht, hu⟩
  · exact ⟨hs, ht, hu⟩

/-! ## What the stages emit -/

theorem checkPreamble_events (st : State) (sum : Nat) :
    ∃ es, (st.checkPreamble sum).events = st.events ++ es ∧ (es = [] ∨ es = [.syncLost]) := by
  unfold State.checkPreamble
  split
  · exact ⟨[], by simp, .inl rfl⟩
  · exact ⟨[], by simp, .inl rfl⟩
  · split
    · exact ⟨[], by simp, .inl rfl⟩
    · exact ⟨_, rfl, .inr rfl⟩
  · split
    · exact ⟨[], by simp, .inl rfl⟩
    · exact ⟨_, rfl, .inr rfl⟩

theorem deliverByte_events (st : State) :
    ∃ es, st.deliverByte.events = st.events ++ es ∧
      (es = [] ∨ es = [.txEnded] ∨ ∃ d, d ≠ Config.stopByte ∧ es = [.byte d]) := by
  unfold State.deliverByte
  split
  · exact ⟨_, rfl, .inr (.inl rfl)⟩
  · rename_i h
    split
    · exact ⟨[], by simp, .inl rfl⟩
    · exact ⟨_, rfl, .inr (.inr ⟨_, h, rfl⟩)⟩
    · exact ⟨[], by simp, .inl rfl⟩
    · exact ⟨[], by simp, .inl rfl⟩

theorem byteBoundary_events (st : State) :
    ∃ es, st.byteBoundary.events = st.events ++ es ∧
      (es = [] ∨ es = [.txEnded] ∨ ∃ d, d ≠ Config.stopByte ∧ es = [.byte d]) := by
  unfold State.byteBoundary
  split
  · exact deliverByte_events st
  · exact ⟨[], by simp, .inl rfl⟩

/-- What a DECODE emits (R160): SYNC_LOST or nothing, and then TX_ENDED, a nonzero BYTE or nothing. -/
theorem decodeWindow_events (st : State) (sum : Nat) :
    ∃ as bs, (st.decodeWindow sum).events = st.events ++ (as ++ bs) ∧ (as = [] ∨ as = [.syncLost]) ∧
      (bs = [] ∨ bs = [.txEnded] ∨ ∃ d, d ≠ Config.stopByte ∧ bs = [.byte d]) := by
  obtain ⟨as, ha, has⟩ := checkPreamble_events st sum
  obtain ⟨bs, hb, hbs⟩ :=
    byteBoundary_events ((st.checkPreamble sum).accumulateBit (majorityBit sum))
  refine ⟨as, bs, ?_, has, hbs⟩
  unfold State.decodeWindow
  dsimp only
  split <;> simp [hb, ha]

/-- Everything VOTE can do (R141): an idle frame, the activating frame, a frame within a window, or the
boundary frame. -/
theorem vote_cases (st : State) (raw : Bool) :
    (st.transferActive = false ∧ raw = false ∧ st.vote raw = st.shiftWin raw) ∨
    (st.transferActive = false ∧ raw = true ∧ st.vote raw = (st.shiftWin raw).activate) ∨
    (st.transferActive = true ∧ st.frameCnt ≠ 4 ∧
      st.vote raw = { st.shiftWin raw with frameCnt := st.frameCnt + 1 }) ∨
    (st.transferActive = true ∧ st.frameCnt = 4 ∧
      st.vote raw = { st.shiftWin raw with frameCnt := 0 }.decodeWindow (popcount (shiftWindow st.win raw))) := by
  unfold State.vote
  dsimp only
  have h4 : (st.frameCnt.val + 1 = Config.framesPerBit) ↔ st.frameCnt = 4 := by
    rw [Fin.ext_iff]; show _ = 5 ↔ _ = 4; omega
  cases ha : st.transferActive
  · cases raw <;> simp [ha]
  · by_cases h : st.frameCnt = 4
    · simp [ha, h, State.windowSum]
    · simp [ha, h, h4]

/-- VOTE leaves the scheduler and the input alone (R60). -/
theorem vote_frame (st : State) (raw : Bool) : SameScheduler (st.vote raw) st := by
  rcases vote_cases st raw with ⟨-, -, h⟩ | ⟨-, -, h⟩ | ⟨-, -, h⟩ | ⟨-, -, h⟩ <;> rw [h]
  · exact .refl _
  · exact .refl _
  · exact ⟨rfl, rfl, rfl, rfl, rfl⟩
  · exact (decodeWindow_frame _ _).1

/-- What a VOTE emits: what DECODE emits, at a boundary. -/
theorem vote_events (st : State) (raw : Bool) :
    ∃ as bs, (st.vote raw).events = st.events ++ (as ++ bs) ∧ (as = [] ∨ as = [.syncLost]) ∧
      (bs = [] ∨ bs = [.txEnded] ∨ ∃ d, d ≠ Config.stopByte ∧ bs = [.byte d]) := by
  rcases vote_cases st raw with ⟨-, -, h⟩ | ⟨-, -, h⟩ | ⟨-, -, h⟩ | ⟨-, -, h⟩ <;> rw [h]
  · exact ⟨[], [], by simp, .inl rfl, .inl rfl⟩
  · exact ⟨[], [], by simp, .inl rfl, .inl rfl⟩
  · exact ⟨[], [], by simp, .inl rfl, .inl rfl⟩
  · exact decodeWindow_events _ _

/-- STEP leaves the scheduler and the input alone (R170). -/
theorem stepFrame_frame (st : State) (frame : List Sample) : SameScheduler (st.stepFrame frame) st :=
  vote_frame _ _

/-- Everything FRAME_COMPLETE can do (R103, R105). -/
theorem frameComplete_cases (st : State) (f : Slot) :
    (st.slot f.other = .empty ∧
      st.frameComplete f = .ok (((st.setSlot f .full).setSlot f.other .filling).emit (.frameReady f))) ∨
    (st.slot f.other = .full ∧
      st.frameComplete f = .ok ((st.setSlot f .full).overrunReclaim f f.other)) ∨
    (st.slot f.other = .filling ∧ st.frameComplete f = .error .bothSlotsFilling) := by
  unfold State.frameComplete
  dsimp only
  cases h : st.slot f.other <;> simp

/-- What a fetch answers. -/
theorem fetch_cases (st : State) :
    (st.input = [] ∧ st.fetch = none) ∨
    ∃ w rest, st.input = w :: rest ∧ st.fetch = some (w, { st with input := rest }) := by
  unfold State.fetch
  cases h : st.input with
  | nil => exact .inl ⟨rfl, rfl⟩
  | cons w rest => exact .inr ⟨w, rest, rfl, rfl⟩

end Sys2Proof.Machine
end

