-- ==== Sys2Proof/Laws/Scheduler.lean ====
section
/-! SUPPORT. Everything the scheduler's operations can do when they answer a next state
(spec/40_scheduler.md R101 to R105), one lemma each, for the proofs to cite. -/

namespace Sys2Proof.Machine

/-! ## The arms of `exec` -/

@[simp] theorem exec_nop (st : State) : exec .nop st = .next st := rfl
@[simp] theorem exec_reset (st : State) : exec .reset st = .next st.resetBlock := rfl
@[simp] theorem exec_beginCapture (s : Slot) (st : State) :
    exec (.beginCapture s) st = execBeginCapture s st := rfl
@[simp] theorem exec_sample (x : Sample) (st : State) : exec (.sample x) st = execSample x st := rfl
@[simp] theorem exec_consume (k : Slot) (st : State) : exec (.consume k) st = execConsume k st := rfl
@[simp] theorem exec_evtByte (d : Byte) (st : State) : exec (.evtByte d) st = execEvtByte d st := rfl
@[simp] theorem exec_evtSyncLost (st : State) : exec .evtSyncLost st = .next (st.emit .syncLost) := rfl
@[simp] theorem exec_evtTxEnded (st : State) : exec .evtTxEnded st = .next (st.emit .txEnded) := rfl
@[simp] theorem exec_evtOverrun (s : Slot) (st : State) :
    exec (.evtOverrun s) st = .next (st.emit (.overrun s)) := rfl
@[simp] theorem exec_evtFrameReady (s : Slot) (st : State) :
    exec (.evtFrameReady s) st = .next (st.emit (.frameReady s)) := rfl

theorem execEvtByte_cases {d : Byte} {st t : State} (h : execEvtByte d st = .next t) :
    d ≠ Config.stopByte ∧ t = st.emit (.byte d) := by
  unfold execEvtByte at h
  by_cases hd : d = Config.stopByte
  · rw [if_pos hd] at h
    cases h
  · rw [if_neg hd] at h
    exact ⟨hd, (Host.Outcome.next.inj h).symm⟩

/-- The test for the last word of a frame (R102). -/
theorem wrIdx_last {i : BitVec 10} : i.toNat + 1 = Config.frameLen ↔ i = 1023#10 := by
  rw [← BitVec.toNat_inj]
  show _ = 1024 ↔ _ = 1023
  omega

theorem fillSlot_of_filling {st : State} {f : Slot} (h : st.slot f = .filling)
    (ho : st.slot f.other ≠ .filling) : st.fillSlot = some f :=
  State.fillSlot_eq_some.mpr ⟨h, by cases f <;> simp_all [Slot.other]⟩

theorem execBeginCapture_cases {s : Slot} {st t : State} (h : execBeginCapture s st = .next t) :
    (st.slot s = .empty ∧ st.slot s.other ≠ .filling ∧ t = (st.setSlot s .filling).setWrIdx 0#10) ∨
    (¬(st.slot s = .empty ∧ st.slot s.other ≠ .filling) ∧ t = st) := by
  unfold execBeginCapture at h
  split at h <;> rename_i hc
  · exact .inl ⟨hc.1, hc.2, (Host.Outcome.next.inj h).symm⟩
  · exact .inr ⟨hc, (Host.Outcome.next.inj h).symm⟩

/-- SAMPLE drops the sample, stores it within a frame, hands a frame over, or overruns. -/
theorem execSample_cases {x : Sample} {st t : State} (h : execSample x st = .next t) :
    ((∀ f, st.slot f ≠ .filling) ∧ t = st) ∨
    (∃ f, st.fillSlot = some f ∧ st.slot f = .filling ∧ st.wrIdx ≠ 1023#10 ∧
      t = (st.storeSample f x).setWrIdx (st.wrIdx + 1#10)) ∨
    (∃ f, st.fillSlot = some f ∧ st.slot f = .filling ∧ st.wrIdx = 1023#10 ∧
      st.slot f.other = .empty ∧
      t = ((((st.storeSample f x).setWrIdx 0#10).setSlot f .full).setSlot f.other .filling).emit
        (.frameReady f)) ∨
    (∃ f, st.fillSlot = some f ∧ st.slot f = .filling ∧ st.wrIdx = 1023#10 ∧
      st.slot f.other = .full ∧
      t = (((st.storeSample f x).setWrIdx 0#10).setSlot f .full).overrunReclaim f f.other) := by
  unfold execSample at h
  split at h
  · rename_i hn
    exact .inl ⟨State.fillSlot_eq_none.mp hn, (Host.Outcome.next.inj h).symm⟩
  · rename_i f hf
    have hs := (State.fillSlot_eq_some.mp hf).1
    dsimp only at h
    split at h <;> rename_i hw
    · rw [wrIdx_last] at hw
      rcases frameComplete_cases ((st.storeSample f x).setWrIdx 0#10) f with ⟨ho, hc⟩ | ⟨ho, hc⟩ | ⟨ho, hc⟩ <;>
        rw [hc] at h
      · exact .inr (.inr (.inl ⟨f, hf, hs, hw, ho, (Host.Outcome.next.inj h).symm⟩))
      · exact .inr (.inr (.inr ⟨f, hf, hs, hw, ho, (Host.Outcome.next.inj h).symm⟩))
      · cases h
    · rw [wrIdx_last] at hw
      exact .inr (.inl ⟨f, hf, hs, hw, (Host.Outcome.next.inj h).symm⟩)

/-- CONSUME does nothing, or runs the pipeline on the frame it read and frees the slot. -/
theorem execConsume_cases {k : Slot} {st t : State} (h : execConsume k st = .next t) :
    (st.slot k ≠ .full ∧ t = st) ∨
    (st.slot k = .full ∧ ∃ frame, readFrame st.buf k = .ok frame ∧
      t = (st.stepFrame frame).setSlot k .empty) := by
  unfold execConsume at h
  split at h <;> rename_i hk
  · exact .inl ⟨by simp [hk], (Host.Outcome.next.inj h).symm⟩
  · exact .inl ⟨by simp [hk], (Host.Outcome.next.inj h).symm⟩
  · split at h
    · cases h
    · rename_i frame hr
      exact .inr ⟨hk, frame, hr, (Host.Outcome.next.inj h).symm⟩

end Sys2Proof.Machine
end

