-- ==== Sys2Proof/Laws/Runs.lean ====
section
/-! SUPPORT. The small laws of runs: a list of operations taken apart, raw bits fed one after another,
the lists of samples and of events that a run delivers, and VOTE in each of its four situations
(spec/42_debouncer.md R141). -/

namespace Sys2Proof

open Machine

/-! ## Runs of operations -/

@[simp] theorem runOps_nil (st : State) : runOps [] st = .next st := rfl

theorem runOps_cons (i : Instr) (is : List Instr) (st : State) :
    runOps (i :: is) st =
      match exec i st with
      | .next st' => runOps is st'
      | .fault e => .fault e
      | .refused e => .refused e := rfl

/-- A first operation that completes. -/
theorem runOps_cons_next {i : Instr} {st st' : State} (h : exec i st = .next st') (is : List Instr) :
    runOps (i :: is) st = runOps is st' := by rw [runOps_cons, h]

/-- A first part of a run that completes. -/
theorem runOps_append_next {is : List Instr} {st st' : State} (h : runOps is st = .next st')
    (js : List Instr) : runOps (is ++ js) st = runOps js st' := by
  induction is generalizing st with
  | nil => cases h; rfl
  | cons i is ih =>
    rw [runOps_cons] at h
    rw [List.cons_append, runOps_cons]
    generalize exec i st = o at h ⊢
    cases o with
    | next t => exact ih h
    | fault e => cases h
    | refused e => cases h

theorem samplesOf_append (is js : List Instr) : samplesOf (is ++ js) = samplesOf is ++ samplesOf js := by
  induction is with
  | nil => rfl
  | cons i is ih => cases i <;> simp [samplesOf, ih]

theorem readySlots_append (a b : List Event) : readySlots (a ++ b) = readySlots a ++ readySlots b := by
  induction a with
  | nil => rfl
  | cons e a ih => cases e <;> simp [readySlots, ih]

/-- The slot after the slot of frame `j` is the other one (R109). -/
theorem frameSlot_succ (s : Slot) (j : Nat) : frameSlot s (j + 1) = (frameSlot s j).other := by
  unfold frameSlot
  rcases Nat.mod_two_eq_zero_or_one j with h | h
  · have : ¬(j + 1) % 2 = 0 := by omega
    simp [h, this]
  · have : (j + 1) % 2 = 0 := by omega
    simp [h, this]

/-! ## Raw bits -/

@[simp] theorem votes_nil (st : State) : votes [] st = st := rfl

@[simp] theorem votes_cons (b : Bool) (bits : List Bool) (st : State) :
    votes (b :: bits) st = votes bits (st.vote b) := rfl

theorem votes_append (a b : List Bool) (st : State) : votes (a ++ b) st = votes b (votes a st) := by
  simp [votes]

theorem popcount_le (w : BitVec 5) : popcount w ≤ 5 := by revert w; decide

/-- Bit `i` of the window after one more raw bit (R141). -/
theorem shiftWindow_bit (w : BitVec 5) (raw : Bool) (i : Nat) (hi : i < 5) :
    (shiftWindow w raw).getLsbD i = if i = 0 then raw else w.getLsbD (i - 1) := by
  revert w raw
  interval_cases i <;> decide

/-! ## VOTE, situation by situation -/

theorem vote_quiet {st : State} (h : st.transferActive = false) : st.vote false = st.shiftWin false := by
  rcases vote_cases st false with ⟨-, -, h⟩ | ⟨-, h2, -⟩ | ⟨h1, -, -⟩ | ⟨h1, -, -⟩
  · exact h
  · cases h2
  · cases h.symm.trans h1
  · cases h.symm.trans h1

theorem vote_activates {st : State} (h : st.transferActive = false) :
    st.vote true = (st.shiftWin true).activate := by
  rcases vote_cases st true with ⟨-, h2, -⟩ | ⟨-, -, h⟩ | ⟨h1, -, -⟩ | ⟨h1, -, -⟩
  · cases h2
  · exact h
  · cases h.symm.trans h1
  · cases h.symm.trans h1

theorem vote_counts {st : State} (raw : Bool) (h : st.transferActive = true) (hc : st.frameCnt ≠ 4) :
    st.vote raw = { st.shiftWin raw with frameCnt := st.frameCnt + 1 } := by
  rcases vote_cases st raw with ⟨h1, -, -⟩ | ⟨h1, -, -⟩ | ⟨-, -, h⟩ | ⟨-, h2, -⟩
  · cases h.symm.trans h1
  · cases h.symm.trans h1
  · exact h
  · exact absurd h2 hc

theorem vote_decodes {st : State} (raw : Bool) (h : st.transferActive = true) (hc : st.frameCnt = 4) :
    st.vote raw =
      { st.shiftWin raw with frameCnt := 0 }.decodeWindow (popcount (shiftWindow st.win raw)) := by
  rcases vote_cases st raw with ⟨h1, -, -⟩ | ⟨h1, -, -⟩ | ⟨-, h2, -⟩ | ⟨-, -, h⟩
  · cases h.symm.trans h1
  · cases h.symm.trans h1
  · exact absurd hc h2
  · exact h

theorem vote_win (st : State) (raw : Bool) : (st.vote raw).win = shiftWindow st.win raw := by
  rcases vote_cases st raw with ⟨-, -, h⟩ | ⟨-, -, h⟩ | ⟨-, -, h⟩ | ⟨-, -, h⟩ <;> rw [h]
  · rfl
  · rfl
  · rfl
  · rw [(decodeWindow_frame _ _).2.1]; rfl

end Sys2Proof
end

