-- ==== Sys2Proof/Machine/Assembler.lean ====
section
/-! DEFINITION. The assembler of spec/30_encoding.md R81 and R82: test programs as text, the
pseudo-instructions with their expansions, and the list of stimulus words a program stands for. It is a
notation for the block's input, not a part of the block. What R81 leaves open is in log 18. -/

namespace Sys2Proof.Machine

/-- One line of a program: an operation or a pseudo-instruction (R81, R82). -/
inductive AsmLine where
  | op (i : Instr)
  | start
  | poll
  | rep (n : Nat) (body : List AsmLine)
  | frameZ
  | frameC (a : Int)
  | frameSq (k : Nat) (a : Int)
  | frameSqp (k : Nat) (a : Int) (m : Nat)
  | frameImp (a : Int)
  | onS
  | onP
  | off
  | bit1S
  | bit1P
  | bit0

/-- Why a program text is refused. -/
inductive AsmError where
  /-- No mnemonic of R72 or R82. -/
  | unknownMnemonic
  /-- An operand is missing or is no number. -/
  | badOperand
  /-- A sample outside −32768..32767 (93_implementation_defined.md I14), or a slot other than 0 and 1. -/
  | operandRange
  /-- The braces of REP do not match. -/
  | badBraces
deriving DecidableEq, Repr

/-! ## Expansion (R82) -/

/-- The operand of SAMPLE as a number, `−32768..32767` (R81, I14). -/
def sampleOperand (a : Int) : Except AsmError Instr :=
  if -32768 ≤ a ∧ a ≤ 32767 then .ok (.sample (BitVec.ofInt 16 a)) else .error .operandRange

/-- The sample at place `n` of `FRAME.SQ k, a` (R82), for every bin `k` (log 18). -/
def squareAt (k : Nat) (a : Int) (n : Nat) : Int :=
  let p := (k * n) % Config.frameLen
  if p < Config.frameLen / 4 ∨ 3 * Config.frameLen / 4 ≤ p then a else -a

/-- The samples of `FRAME.SQP k, a, m`; `FRAME.SQ k, a` is the case `m = N` (R82). DESIGN CHOICE (log 18):
R82 gives `m` no range, and for `m` above `N`, where its `N − m` zeros cannot be written, the frame is
here the `N` samples of `FRAME.SQ k, a`. -/
def squareFrame (k : Nat) (a : Int) (m : Nat) : List Int :=
  (List.range Config.frameLen).map (fun n => if n < m then squareAt k a n else 0)

/-- The samples of `FRAME.IMP a` (R82). -/
def impulseFrame (a : Int) : List Int := a :: List.replicate (Config.frameLen - 1) 0

/-- A SAMPLE for every number of a list. -/
def sampleOps (xs : List Int) : Except AsmError (List Instr) := xs.mapM sampleOperand

/-- `START` (R82, R222). -/
def startOps : List Instr := [.reset, .beginCapture .slot0]

/-- `POLL` (R82). -/
def pollOps : List Instr := [.consume .slot0, .consume .slot1]

/-- A frame and then `POLL`: `ON.S`, `ON.P`, `OFF` (R82). -/
def polledFrame (xs : List Int) : Except AsmError (List Instr) := do
  let ops ← sampleOps xs
  return ops ++ pollOps

/-- `ON.S` (R82). -/
def onSyncOps : Except AsmError (List Instr) := polledFrame (squareFrame 420 1000 Config.frameLen)

/-- `ON.P` (R82). -/
def onPayloadOps : Except AsmError (List Instr) := polledFrame (squareFrame 400 1000 Config.frameLen)

/-- `OFF` (R82). -/
def offOps : Except AsmError (List Instr) := polledFrame (List.replicate Config.frameLen 0)

/-- A list written `n` times (R82, `REP`). -/
def repeated (n : Nat) (ops : List Instr) : List Instr := (List.replicate n ops).flatten

mutual

/-- The operations one line stands for (R82). -/
def AsmLine.expand : AsmLine → Except AsmError (List Instr)
  | .op i => .ok [i]
  | .start => .ok startOps
  | .poll => .ok pollOps
  | .rep n body => (expandAll body).map (repeated n)
  | .frameZ => sampleOps (List.replicate Config.frameLen 0)
  | .frameC a => sampleOps (List.replicate Config.frameLen a)
  | .frameSq k a => sampleOps (squareFrame k a Config.frameLen)
  | .frameSqp k a m => sampleOps (squareFrame k a m)
  | .frameImp a => sampleOps (impulseFrame a)
  | .onS => onSyncOps
  | .onP => onPayloadOps
  | .off => offOps
  | .bit1S => onSyncOps.map (repeated 5)
  | .bit1P => onPayloadOps.map (repeated 5)
  | .bit0 => offOps.map (repeated 5)

/-- The operations of a list of lines, in order (R81). -/
def expandAll : List AsmLine → Except AsmError (List Instr)
  | [] => .ok []
  | l :: ls =>
    match l.expand with
    | .error e => .error e
    | .ok is =>
      match expandAll ls with
      | .error e => .error e
      | .ok js => .ok (is ++ js)

end

/-! ## Text (R81) -/

/-- The two braces of REP, by their character codes. -/
def isBrace (c : Char) : Bool := c.toNat == 123 || c.toNat == 125

/-- What separates tokens besides braces: blanks, line ends and the comma between operands. -/
def isGap (c : Char) : Bool := c.isWhitespace || c == ','

/-- A finished token put in front of the later ones; an empty one is no token. -/
def pushToken (cur : List Char) (ts : List (List Char)) : List (List Char) :=
  if cur.isEmpty then ts else cur.reverse :: ts

/-- The tokens of a text; `;` starts a comment to the end of the line (R81). -/
def lex : Bool → List Char → List Char → List (List Char)
  | _, cur, [] => pushToken cur []
  | true, cur, c :: cs => lex (c != '\n') cur cs
  | false, cur, c :: cs =>
    if c == ';' then pushToken cur (lex true [] cs)
    else if isBrace c then pushToken cur ([c] :: lex false [] cs)
    else if isGap c then pushToken cur (lex false [] cs)
    else lex false (c :: cur) cs

/-- One digit in a base. -/
def digitOf (base : Nat) (c : Char) : Option Nat :=
  let n := c.toNat
  let d : Option Nat :=
    if 48 ≤ n ∧ n ≤ 57 then some (n - 48)
    else if 65 ≤ n ∧ n ≤ 70 then some (n - 55)
    else if 97 ≤ n ∧ n ≤ 102 then some (n - 87)
    else none
  d.filter (fun v => v < base)

/-- The digits of a numeral after the first ones read, or nothing where one is no digit. -/
def digits (base : Nat) : Nat → List Char → Option Nat
  | acc, [] => some acc
  | acc, c :: cs =>
    match digitOf base c with
    | none => none
    | some d => digits base (acc * base + d) cs

/-- A numeral as written: hexadecimal with `0x`, decimal otherwise, a sign on a decimal one (R81). -/
inductive Numeral where
  | decimal (v : Int)
  | hexadecimal (v : Nat)

/-- The numeral a token spells. -/
def numeralOf : List Char → Option Numeral
  | '0' :: 'x' :: c :: cs => (digits 16 0 (c :: cs)).map .hexadecimal
  | '-' :: c :: cs => (digits 10 0 (c :: cs)).map (fun n => .decimal (-(n : Int)))
  | '+' :: c :: cs => (digits 10 0 (c :: cs)).map (fun n => .decimal (n : Int))
  | c :: cs => (digits 10 0 (c :: cs)).map (fun n => .decimal (n : Int))
  | [] => none

/-- A sample operand: a signed decimal, or a 16-bit pattern in hexadecimal (R81). -/
def sampleNumber (t : List Char) : Except AsmError Int :=
  match numeralOf t with
  | some (.decimal v) => if -32768 ≤ v ∧ v ≤ 32767 then .ok v else .error .operandRange
  | some (.hexadecimal n) => if n ≤ 0xFFFF then .ok (BitVec.ofNat 16 n).toInt else .error .operandRange
  | none => .error .badOperand

/-- A count or a bin: a number that is not negative. -/
def countNumber (t : List Char) : Except AsmError Nat :=
  match numeralOf t with
  | some (.decimal v) => if 0 ≤ v then .ok v.toNat else .error .operandRange
  | some (.hexadecimal n) => .ok n
  | none => .error .badOperand

/-- A slot operand, 0 or 1 (R81). -/
def slotNumber (t : List Char) : Except AsmError Slot := do
  let n ← countNumber t
  if n = 0 then return .slot0 else if n = 1 then return .slot1 else throw .operandRange

/-- The mnemonics that take no operand (R72, R82). -/
def plainLine (t : List Char) : Option AsmLine :=
  if t = ['N', 'O', 'P'] then some (.op .nop)
  else if t = ['R', 'E', 'S', 'E', 'T'] then some (.op .reset)
  else if t = ['S', 'T', 'A', 'R', 'T'] then some .start
  else if t = ['P', 'O', 'L', 'L'] then some .poll
  else if t = ['F', 'R', 'A', 'M', 'E', '.', 'Z'] then some .frameZ
  else if t = ['O', 'N', '.', 'S'] then some .onS
  else if t = ['O', 'N', '.', 'P'] then some .onP
  else if t = ['O', 'F', 'F'] then some .off
  else if t = ['B', 'I', 'T', '1', '.', 'S'] then some .bit1S
  else if t = ['B', 'I', 'T', '1', '.', 'P'] then some .bit1P
  else if t = ['B', 'I', 'T', '0'] then some .bit0
  else none

/-- The mnemonics that take operands, with the tokens after them (R72, R82); `none` for any other
token, `REP` and the braces among them. -/
def operandLine (t : List Char) (ts : List (List Char)) :
    Option (Except AsmError (AsmLine × List (List Char))) :=
  if t = ['B', 'E', 'G', 'I', 'N', '_', 'C', 'A', 'P', 'T', 'U', 'R', 'E'] then
    match ts with
    | a :: rest => some (do return (.op (.beginCapture (← slotNumber a)), rest))
    | _ => some (.error .badOperand)
  else if t = ['C', 'O', 'N', 'S', 'U', 'M', 'E'] then
    match ts with
    | a :: rest => some (do return (.op (.consume (← slotNumber a)), rest))
    | _ => some (.error .badOperand)
  else if t = ['S', 'A', 'M', 'P', 'L', 'E'] then
    match ts with
    | a :: rest => some (do return (.op (.sample (BitVec.ofInt 16 (← sampleNumber a))), rest))
    | _ => some (.error .badOperand)
  else if t = ['F', 'R', 'A', 'M', 'E', '.', 'C'] then
    match ts with
    | a :: rest => some (do return (.frameC (← sampleNumber a), rest))
    | _ => some (.error .badOperand)
  else if t = ['F', 'R', 'A', 'M', 'E', '.', 'I', 'M', 'P'] then
    match ts with
    | a :: rest => some (do return (.frameImp (← sampleNumber a), rest))
    | _ => some (.error .badOperand)
  else if t = ['F', 'R', 'A', 'M', 'E', '.', 'S', 'Q'] then
    match ts with
    | k :: a :: rest => some (do return (.frameSq (← countNumber k) (← sampleNumber a), rest))
    | _ => some (.error .badOperand)
  else if t = ['F', 'R', 'A', 'M', 'E', '.', 'S', 'Q', 'P'] then
    match ts with
    | k :: a :: m :: rest =>
      some (do return (.frameSqp (← countNumber k) (← sampleNumber a) (← countNumber m), rest))
    | _ => some (.error .badOperand)
  else none

/-- The parser over the tokens: `cur` holds the lines of the body being read, last one first, and
`outer` the count and the lines before each REP that is still open. Every turn takes at least one
token, so the number of tokens is fuel enough. -/
def parseTokens : Nat → List (List Char) → List AsmLine → List (Nat × List AsmLine) →
    Except AsmError (List AsmLine)
  | _, [], cur, [] => .ok cur.reverse
  | _, [], _, _ :: _ => .error .badBraces
  | 0, _ :: _, _, _ => .error .badBraces
  | fuel + 1, t :: ts, cur, outer =>
    if t = [Char.ofNat 125] then
      match outer with
      | (n, before) :: outer' => parseTokens fuel ts (.rep n cur.reverse :: before) outer'
      | [] => .error .badBraces
    else if t = ['R', 'E', 'P'] then
      match ts with
      | n :: b :: rest =>
        if b = [Char.ofNat 123] then
          match countNumber n with
          | .ok k => parseTokens fuel rest [] ((k, cur) :: outer)
          | .error e => .error e
        else .error .badBraces
      | _ => .error .badOperand
    else
      match plainLine t with
      | some l => parseTokens fuel ts (l :: cur) outer
      | none =>
        match operandLine t ts with
        | some (.ok (l, rest)) => parseTokens fuel rest (l :: cur) outer
        | some (.error e) => .error e
        | none => .error .unknownMnemonic

/-- The lines of a program text (R81). -/
def parseProgram (text : List Char) : Except AsmError (List AsmLine) :=
  let ts := lex false [] text
  parseTokens ts.length ts [] []

/-- The operations of a program text given as its characters (R81, R82). -/
def assembleChars (text : List Char) : Except AsmError (List Instr) :=
  match parseProgram text with
  | .error e => .error e
  | .ok ls => expandAll ls

/-- The operations of a program text (R81, R82). -/
def assemble (text : String) : Except AsmError (List Instr) := assembleChars text.toList

/-- The words of a program (R71), to be performed after what is already waiting. -/
def State.load (st : State) (ops : List Instr) : State := { st with input := st.input ++ ops.map encode }

end Sys2Proof.Machine
end

