-- ==== Sys2Proof/Tests/Slice0.lean ====
section
/-! SUPPORT. The model's own tests, expected results taken from spec/95_test_vectors.md and the numbered
rules, and after them one witness for the hypotheses of every statement of the Obligations file. -/

namespace Sys2Proof.Tests

open Machine

/-! ## WellFormed and the configuration -/

/-- R171: a BYTE event never carries 0. -/
theorem test_evt_byte_zero_ill_formed :
    (Instr.evtByte 0x00#8).wellFormed = false ∧ (Instr.evtByte 0x01#8).wellFormed = true := by decide

/-- R128: a coefficient outside −2^15..2^15 is refused. -/
theorem test_coefficient_range :
    legalCoeff 32768 = true ∧ legalCoeff 32769 = false ∧ legalCoeff (-32768) = true ∧
      legalCoeff (-32769) = false ∧ legalTuning Config.coeffSync 40000 = false := by decide

theorem test_configuration :
    legalTuning Config.coeffSync Config.coeffPayload = true ∧
      Config.kSync = Config.fSync * Config.frameLen / Config.sampleRate ∧
      Config.kPayload = Config.fPayload * Config.frameLen / Config.sampleRate ∧
      Config.sampleRate = 51200 ∧ Config.framePeriodMs = 20 ∧ Config.bitWindowMs = 100 ∧
      Config.byteMs = 800 ∧ Config.binSpacing = 50 := by decide

/-! ## Decode: section 6 of the vectors, and the rows of R72 and R76 written out bit by bit -/

theorem test_decode_nop : decode (.stimulus 0b0000_0000000000000000#20) = .ok .nop := by decide

theorem test_decode_reset : decode (.stimulus 0b0001_0000000000000000#20) = .ok .reset := by decide

theorem test_decode_begin_capture :
    decode (.stimulus 0b0010_0000000000000000#20) = .ok (.beginCapture .slot0) ∧
      decode (.stimulus 0b0010_0000000000000001#20) = .ok (.beginCapture .slot1) := by decide

theorem test_decode_sample :
    decode (.stimulus 0b0011_1111110000011000#20) = .ok (.sample (BitVec.ofInt 16 (-1000))) ∧
      decode (.stimulus 0x303E8#20) = .ok (.sample 1000#16) ∧
      sampleValue 0xFC18#16 = -1000 ∧ sampleValue 0x8000#16 = -32768 ∧ sampleValue 0x7FFF#16 = 32767 := by
  decide

theorem test_decode_consume :
    decode (.stimulus 0b0100_0000000000000000#20) = .ok (.consume .slot0) ∧
      decode (.stimulus 0x40001#20) = .ok (.consume .slot1) := by decide

theorem test_decode_evt_byte :
    decode (.event 0b0001_01001000#12) = .ok (.evtByte 0x48#8) ∧
      decode (.event 0x1FF#12) = .ok (.evtByte 0xFF#8) := by decide

theorem test_decode_evt_sync_lost : decode (.event 0b0010_00000000#12) = .ok .evtSyncLost := by decide

theorem test_decode_evt_tx_ended : decode (.event 0b0011_00000000#12) = .ok .evtTxEnded := by decide

theorem test_decode_evt_overrun :
    decode (.event 0b0100_00000000#12) = .ok (.evtOverrun .slot0) ∧
      decode (.event 0b0100_00000001#12) = .ok (.evtOverrun .slot1) := by decide

theorem test_decode_evt_frame_ready :
    decode (.event 0b0101_00000000#12) = .ok (.evtFrameReady .slot0) ∧
      decode (.event 0b0101_00000001#12) = .ok (.evtFrameReady .slot1) := by decide

/-- Vector S7 (R74). -/
theorem test_reserved_stimuli :
    decode (.stimulus 0x00001#20) = .error .argNotZero ∧
      decode (.stimulus 0x10001#20) = .error .argNotZero ∧
      decode (.stimulus 0x20002#20) = .error .slotArgNotZero ∧
      decode (.stimulus 0x40002#20) = .error .slotArgNotZero ∧
      decode (.stimulus 0x50000#20) = .error .reservedOp ∧
      decode (.stimulus 0xF1234#20) = .error .reservedOp := by decide

/-- R76, I9: the event words that are never emitted. -/
theorem test_reserved_events :
    decode (.event 0x000#12) = .error .reservedKind ∧ decode (.event 0x600#12) = .error .reservedKind ∧
      decode (.event 0x201#12) = .error .dataNotZero ∧ decode (.event 0x380#12) = .error .dataNotZero ∧
      decode (.event 0x402#12) = .error .slotDataNotZero ∧
      decode (.event 0x502#12) = .error .slotDataNotZero := by decide

/-- The word of a table row is the next one performed after reset; a word too wide for its row spells
nothing (log 16). -/
theorem test_fetch_table_word :
    (State.reset.withFetchWord 24 0x20001).input = [.stimulus 0x20001#20] ∧
      (State.reset.withFetchWord 16 0x148).input = [.event 0x148#12] ∧
      decodeTableWord 24 0x120001 = none ∧ decodeTableWord 16 0x1148 = none := by decide

/-! ## One operation on a small state -/

/-- The state after a step, or the state after reset when the step gives none. -/
def after (o : Host.Outcome State Fault Refusal) : State :=
  match o with
  | .next s => s
  | .fault _ => State.reset
  | .refused _ => State.reset

/-- A scheduler state with nothing in the buffers. -/
def sched (s0 s1 : SlotState) (i : BitVec 10) : State :=
  { State.reset with slots := ⟨s0, s1⟩, wrIdx := i }

/-- An active decoder at a window boundary, as the rows of section 5.3 give it. -/
def active (ph : Phase) (pending : Byte) (bits : BitVec 3) (index : BitVec 32) : State :=
  { State.reset with
    phase := ph, transferActive := true, pendingByte := pending, bitsInByte := bits
    bitWindowIndex := index }

theorem test_nop : after (exec .nop (sched .full .filling 5#10)) = sched .full .filling 5#10 := by decide

/-- Vector S6. -/
theorem test_reset :
    (after (exec .reset (sched .filling .empty 100#10))).st0 = 0x0000#16 ∧
      (sched .filling .empty 100#10).st0 = 0x1901#16 := by decide

/-- Vector S2. -/
theorem test_begin_capture :
    (after (exec (.beginCapture .slot1) State.reset)).st0 = 0x0004#16 ∧
      after (exec (.beginCapture .slot0) (sched .empty .filling 0#10)) = sched .empty .filling 0#10 := by
  decide

/-- Vector S1, and vector S3's sample after the hand-off. -/
theorem test_sample :
    after (exec (.sample 1234#16) State.reset) = State.reset ∧
      (after (exec (.sample 7#16) (sched .full .filling 0#10))).st0 = 0x0046#16 ∧
      (after (exec (.sample 7#16) (sched .full .filling 0#10))).buf = [(1024, 7#16)] := by decide

/-- Vectors S3 and S4: the hand-off and the overrun. -/
theorem test_sample_frame_end :
    (after (exec (.sample 511#16) (sched .filling .empty 1023#10))).st0 = 0x0006#16 ∧
      (after (exec (.sample 511#16) (sched .filling .empty 1023#10))).eventWords = [0x500#12] ∧
      (after (exec (.sample 0#16) (sched .full .filling 1023#10))).st0 = 0x0019#16 ∧
      (after (exec (.sample 0#16) (sched .full .filling 1023#10))).eventWords = [0x400#12, 0x501#12] := by
  decide

/-- Vector S3: CONSUME of a FILLING and of an EMPTY slot. -/
theorem test_consume :
    after (exec (.consume .slot0) (sched .filling .empty 9#10)) = sched .filling .empty 9#10 ∧
      after (exec (.consume .slot1) (sched .filling .empty 9#10)) = sched .filling .empty 9#10 := by decide

theorem test_evt_byte : (after (exec (.evtByte 0x48#8) State.reset)).eventWords = [0x148#12] := by decide

theorem test_evt_sync_lost : (after (exec .evtSyncLost State.reset)).eventWords = [0x200#12] := by decide

theorem test_evt_tx_ended : (after (exec .evtTxEnded State.reset)).eventWords = [0x300#12] := by decide

theorem test_evt_overrun :
    (after (exec (.evtOverrun .slot1) State.reset)).eventWords = [0x401#12] := by decide

theorem test_evt_frame_ready :
    (after (exec (.evtFrameReady .slot0) State.reset)).eventWords = [0x500#12] := by decide

/-! ## The stages -/

/-- R130, and section 3.7 of the vectors. -/
theorem test_operators :
    shr 15 4 = 0 ∧ shr 16 4 = 1 ∧ shr 31 4 = 1 ∧ shr (-1) 4 = -1 ∧ shr (-16) 4 = -1 ∧ shr (-17) 4 = -2 ∧
      shr 32767 4 = 2047 ∧ shr (-32768) 4 = -2048 ∧ scaledProduct 1 Config.coeffSync = -2 ∧
      scaledProduct (-1) Config.coeffSync = 1 ∧ scaledProduct (-2) Config.coeffSync = 3 ∧
      scaledProduct 2 Config.coeffSync = -4 ∧ shl (-1) 6 = -64 ∧ magnitudeOf 65535 = 64 ∧
      magnitudeOf 65536 = 128 ∧ magnitudeOf 32767 = 0 := by decide

/-- Section 3.3: the first steps of the recurrence on FRAME.SQ 420, 1000. -/
theorem test_recurrence :
    (filterFrame ([1000, -1000, 1000, 1000].map (BitVec.ofInt 16)) Config.coeffSync).s1 = -249 ∧
      (filterFrame ([1000, -1000, 1000, 1000].map (BitVec.ofInt 16)) Config.coeffSync).s2 = 283 := by
  decide

/-- Section 3.3: the power line of FRAME.SQ 420, 1000, from the `s1` and `s2` of section 3.2. -/
theorem test_power_line :
    scaledProduct 581 Config.coeffSync = -982 ∧ powerOf Config.coeffSync ⟨581, -41231⟩ = 1659844080 ∧
      magnitudeOf 1659844080 = 3241856 ∧ powerOf Config.coeffPayload ⟨3132, -43137⟩ = 1661697702 ∧
      magnitudeOf 1661697702 = 3245440 := by decide

/-- Section 3.4: the powers on either side of the threshold. -/
theorem test_threshold :
    detect (magnitudeOf 55342) = false ∧ detect (magnitudeOf 65659) = true ∧ magnitudeOf 55342 = 64 ∧
      magnitudeOf 65659 = 128 ∧ detect 99 = false ∧ detect 100 = true := by decide

/-- Vector V2: activation, and the DECODE on the fifth frame counting the activating one. -/
theorem test_first_window :
    let t := votes [false, false, true, true, true, true, true, false] State.reset
    t.st1 = 0x7895#16 ∧ t.st2 = 0x01#8 ∧ t.st3 = 1#32 ∧ t.events = [] := by decide

/-- Vector V3: four 1s and a 0 are a majority, and yet the preamble fails. -/
theorem test_majority_is_not_enough :
    let t := votes [true, true, true, true, false] State.reset
    t.st1 = 0x7887#16 ∧ t.st2 = 0x01#8 ∧ t.st3 = 1#32 ∧ t.eventWords = [0x200#12] := by decide

/-- Vector V4: the preamble locks. -/
theorem test_lock :
    (votes preambleRaw State.reset).st1 = 0x000E#16 ∧ (votes preambleRaw State.reset).st3 = 8#32 ∧
      (votes preambleRaw State.reset).events = [] := by decide +kernel

/-- Vector V13: the window counter wraps. -/
theorem test_window_index_wraps :
    let s := { active .locked 0b101#8 3#3 0xFFFFFFFF#32 with frameCnt := 4, win := 0b01111#5 }
    (s.vote true).st1 = 0x7E0E#16 ∧ (s.vote true).st2 = 0x0B#8 ∧ (s.vote true).st3 = 0#32 := by decide

/-- Section 5.3, rows EXPECT_ONE 4, EXPECT_ZERO 0 and EXPECT_ZERO 3. -/
theorem test_decode_in_preamble :
    ((active .expectOne 0#8 0#3 0#32).decodeWindow 4).eventWords = [0x200#12] ∧
      ((active .expectOne 0#8 0#3 0#32).decodeWindow 4).pendingByte = 1#8 ∧
      (active .expectZero 0x55#8 7#3 7#32).decodeWindow 0 = active .locked 0#8 0#3 8#32 ∧
      ((active .expectZero 0x55#8 7#3 7#32).decodeWindow 3).phase = .failed := by decide

/-- Section 5.3, the rows of LOCKED. -/
theorem test_decode_locked :
    ((active .locked 0x24#8 7#3 15#32).decodeWindow 3).eventWords = [0x149#12] ∧
      ((active .locked 0x24#8 7#3 15#32).decodeWindow 2).eventWords = [0x148#12] ∧
      (active .locked 0#8 7#3 23#32).decodeWindow 0 = State.reset.emit .txEnded ∧
      ((active .locked 0#8 7#3 23#32).decodeWindow 5).eventWords = [0x101#12] := by decide

/-- Section 5.3, the rows of FAILED. -/
theorem test_decode_failed :
    (active .failed 0x7F#8 7#3 7#32).decodeWindow 5 = active .failed 0#8 0#3 8#32 ∧
      (active .failed 0#8 7#3 31#32).decodeWindow 1 = State.reset.emit .txEnded ∧
      (active .failed 2#8 2#3 2#32).decodeWindow 4 = active .failed 5#8 3#3 3#32 := by decide

/-- R82 and section 6: what START and POLL stand for, a sample word, a comment. -/
theorem test_assembler :
    (assembleChars ['S', 'T', 'A', 'R', 'T', ';', 'x', '\n', 'S', 'A', 'M', 'P', 'L', 'E', ' ', '-', '1', '0', '0', '0',
          '\n', 'P', 'O', 'L', 'L']).toOption =
        some [.reset, .beginCapture .slot0, .sample 0xFC18#16, .consume .slot0, .consume .slot1] ∧
      (assembleChars ['C', 'O', 'N', 'S', 'U', 'M', 'E', ' ', '2']).toOption = none := by
  decide +kernel

/-- R82: the places of FRAME.SQ 420, 1 that section 3.2 lists, a sample outside the range, and the model's
choice for more than `N` places (log 18). -/
theorem test_square_frame :
    (List.range 16).map (squareAt 420 1) = [1, -1, 1, 1, -1, 1, -1, 1, -1, -1, 1, -1, 1, -1, -1, 1] ∧
      (sampleOperand 32768).toOption = none ∧
      (squareFrame 420 1 1025 == squareFrame 420 1 1024) = true := by decide +kernel

/-! ## States for the witnesses -/

/-- Every word of both buffers written, with 0. -/
@[irreducible] def zeroBuf : Memory := (List.range 2048).map (fun a => (a, 0#16))

theorem lookup_mapped (as : List Nat) (k : Nat) (h : k ∈ as) :
    lookupCell (as.map (fun a => (a, 0#16))) k = some 0#16 := by
  induction as with
  | nil => cases h
  | cons a as ih =>
    by_cases e : a = k
    · simp [lookupCell, e]
    · have hk : k ∈ as := (List.mem_cons.mp h).resolve_left (Ne.symm e)
      simp [lookupCell, e, ih hk]

theorem lookup_mapped_none (as : List Nat) (k : Nat) (h : k ∉ as) :
    lookupCell (as.map (fun a => (a, 0#16))) k = none := by
  induction as with
  | nil => rfl
  | cons a as ih =>
    have ha : a ≠ k := fun e => h (e ▸ List.mem_cons_self)
    simp [lookupCell, ha, ih (fun hk => h (List.mem_cons_of_mem _ hk))]

theorem zeroBuf_read (a : BufAddr) : memRead zeroBuf a = some 0#16 := by
  unfold zeroBuf
  exact lookup_mapped _ _ (List.mem_range.mpr a.isLt)

theorem zeroBuf_written (s : Slot) (i : BitVec 10) : Written zeroBuf s i := by
  rw [Written, zeroBuf_read]
  rfl

theorem zeroBuf_wf : Memory.wf zeroBuf := by
  unfold zeroBuf
  refine ⟨?_, fun c hc => ?_⟩
  · rw [List.pairwise_map]
    exact List.pairwise_lt_range
  · obtain ⟨a, ha, rfl⟩ := List.mem_map.mp hc
    exact List.mem_range.mp ha

/-- Frame 0 complete in slot 0, slot 1 one sample short of complete. -/
def raceState : State := { sched .full .filling 1023#10 with buf := zeroBuf }

theorem raceState_inv : BlockInv raceState where
  bufWf := zeroBuf_wf
  slots := .inr (.inr (.inr (.inr rfl)))
  written := fun s i => ⟨fun _ => zeroBuf_written s i, fun _ _ => zeroBuf_written s i⟩
  wrIdxIdle := fun h => by revert h; decide
  decoder :=
    { idle := fun _ => ⟨rfl, rfl, rfl, rfl, rfl, rfl⟩
      aligned := by decide
      preambleShort := fun _ => by decide
      preambleTurn := fun _ => by decide
      preambleBits := fun _ => by decide
      pendingSmall := by decide }
  events := fun e he => by cases he

/-- CONSUME of a FULL slot that is written completes. -/
theorem consume_completes {st : State} {k : Slot} (hk : st.slot k = .full) (h : ∀ i, Written st.buf k i) :
    ∃ t, exec (.consume k) st = .next t := by
  obtain ⟨frame, hr⟩ := readFrame_of_written h
  exact ⟨(st.stepFrame frame).setSlot k .empty, by simp only [exec_consume, execConsume, hk, hr]⟩

theorem raceState_consume : ∃ t, exec (.consume .slot0) raceState = .next t :=
  consume_completes rfl (zeroBuf_written .slot0)

theorem lockedInv (n : BitVec 32) (p : Byte) (k : BitVec 3) (h : k = n.extractLsb' 0 3)
    (hp : p.toNat < 2 ^ k.toNat) : DecoderInv (active .locked p k n) where
  idle := fun h => by cases h
  aligned := h
  preambleShort := fun h => by rcases h with h | h <;> cases h
  preambleTurn := fun h => by rcases h with h | h <;> cases h
  preambleBits := fun h => by rcases h with h | h <;> cases h
  pendingSmall := hp

/-- The preamble one bit short of its end. -/
theorem preambleEndInv : DecoderInv (active .expectZero 0x55#8 7#3 7#32) where
  idle := fun h => by cases h
  aligned := by decide
  preambleShort := fun _ => by decide
  preambleTurn := fun _ => by decide
  preambleBits := fun _ => by decide
  pendingSmall := by decide

theorem resetIdle : DecoderIdle State.reset := ⟨rfl, rfl, rfl, rfl, rfl, rfl⟩

/-! ## The hypotheses of the statements are met -/

/-- BeginCaptureGuarded, clauses 2 to 5. -/
theorem witness_BeginCaptureGuarded :
    (State.reset.slot .slot0 = .empty ∧ State.reset.slot Slot.slot0.other ≠ .filling) ∧
      ¬((sched .empty .filling 0#10).slot .slot0 = .empty ∧
        (sched .empty .filling 0#10).slot Slot.slot0.other ≠ .filling) ∧
      (sched .empty .filling 0#10).slot .slot1 = .filling ∧
      (sched .full .filling 0#10).slot .slot0 = .full := by decide

theorem witness_SampleWithoutFillingSlotDropped :
    ∀ k : Slot, State.reset.slot k ≠ .filling := by intro k; cases k <;> decide

/-- At word 0, at the last word before the end, and with both slots FILLING. -/
theorem witness_SampleStoresAndAdvances :
    ((sched .filling .empty 0#10).slot .slot0 = .filling ∧ (sched .filling .empty 0#10).wrIdx ≠ 1023#10) ∧
      ((sched .full .filling 1022#10).slot .slot1 = .filling ∧
        (sched .full .filling 1022#10).slot .slot0 ≠ .filling ∧
        (sched .full .filling 1022#10).wrIdx ≠ 1023#10) ∧
      (sched .filling .filling 5#10).slot .slot0 = .filling := by decide

theorem witness_LastSampleHandsOver :
    (sched .empty .filling 1023#10).slot .slot1 = .filling ∧
      (sched .empty .filling 1023#10).slot Slot.slot1.other = .empty ∧
      (sched .empty .filling 1023#10).wrIdx = 1023#10 := by decide

theorem witness_LastSampleOverrun :
    (sched .full .filling 1023#10).slot .slot1 = .filling ∧
      (sched .full .filling 1023#10).slot Slot.slot1.other = .full ∧
      (sched .full .filling 1023#10).wrIdx = 1023#10 := by decide

theorem witness_LastSampleBothFillingFaults :
    (sched .filling .filling 1023#10).slot .slot0 = .filling ∧
      (sched .filling .filling 1023#10).slot .slot1 = .filling ∧
      (sched .filling .filling 1023#10).wrIdx = 1023#10 := by decide

theorem witness_ConsumeOfUnfinishedSlotDoesNothing :
    (sched .filling .empty 3#10).slot .slot0 ≠ .full ∧ (sched .filling .empty 3#10).slot .slot1 ≠ .full := by
  decide

theorem witness_ConsumeRunsPipelineOnFrame :
    raceState.slot .slot0 = .full ∧ (List.replicate 1024 0#16).length = 1024 ∧
      ∀ i, i < 1024 →
        memRead raceState.buf (bufAddr .slot0 (BitVec.ofNat 10 i)) = (List.replicate 1024 (0#16 : Sample))[i]? := by
  refine ⟨rfl, List.length_replicate, fun i hi => ?_⟩
  rw [List.getElem?_replicate, if_pos hi]
  exact zeroBuf_read _

/-- The first word of the slot, and its last word with all before it written. -/
theorem witness_ConsumeOfUnwrittenWordFaults :
    ((sched .full .empty 0#10).slot .slot0 = .full ∧
        memRead (sched .full .empty 0#10).buf (bufAddr .slot0 0#10) = none ∧
        ∀ j : BitVec 10, j < 0#10 →
          (memRead (sched .full .empty 0#10).buf (bufAddr .slot0 j)).isSome = true) ∧
      let m : Memory := (List.range 1023).map (fun a => (a, 0#16))
      memRead m (bufAddr .slot0 1023#10) = none ∧
        ∀ j : BitVec 10, j < 1023#10 → (memRead m (bufAddr .slot0 j)).isSome = true := by
  refine ⟨⟨rfl, rfl, fun j hj => ?_⟩, lookup_mapped_none _ _ (by rw [bufAddr_toNat]; simp [Slot.bit]),
    fun j hj => ?_⟩
  · exact absurd hj (by simp [BitVec.lt_def])
  · have h : (bufAddr .slot0 j).toNat ∈ List.range 1023 := by
      rw [bufAddr_toNat]
      simp only [Slot.bit, BitVec.toNat_ofNat, List.mem_range]
      have := BitVec.lt_def.mp hj
      simp at this ⊢
      omega
    rw [memRead, lookup_mapped _ _ h]
    rfl

/-- The two ends of the range. -/
theorem witness_EventRowsOnlyEmit : (0x01#8 : Byte) ≠ 0x00#8 ∧ (0xFF#8 : Byte) ≠ 0x00#8 := by decide

theorem witness_NoOperationEmitsByteZero :
    (∀ e ∈ raceState.events, e ≠ .byte 0x00#8) ∧ ∃ t, exec (.consume .slot0) raceState = .next t :=
  ⟨raceState_inv.events, raceState_consume⟩

/-- Off a frame's end and at it. -/
theorem witness_SampleFrame :
    (∃ t, exec (.sample 7#16) (sched .full .filling 0#10) = .next t) ∧
      (sched .full .filling 0#10).wrIdx ≠ 1023#10 ∧ ∃ t, exec (.sample 7#16) raceState = .next t :=
  ⟨⟨_, rfl⟩, by decide, ⟨_, rfl⟩⟩

theorem witness_ConsumeFrame : ∃ t, exec (.consume .slot0) raceState = .next t := raceState_consume

/-- BEGIN_CAPTURE with and without effect, RESET, and each event row. -/
theorem witness_NonStoringFrame :
    (∀ x, Instr.beginCapture .slot0 ≠ .sample x) ∧ (∀ k, Instr.beginCapture .slot0 ≠ .consume k) ∧
      (∃ t, exec (.beginCapture .slot0) State.reset = .next t) ∧
      (∃ t, exec (.beginCapture .slot0) (sched .empty .filling 5#10) = .next t) ∧
      (∃ t, exec .reset (sched .empty .filling 5#10) = .next t) ∧
      (∃ t, exec (.evtByte 0x01#8) State.reset = .next t) ∧ (∃ t, exec .evtSyncLost State.reset = .next t) ∧
      (∃ t, exec .evtTxEnded State.reset = .next t) ∧
      (∃ t, exec (.evtOverrun .slot1) State.reset = .next t) ∧
      ∃ t, exec (.evtFrameReady .slot1) State.reset = .next t :=
  ⟨fun _ => by simp, fun _ => by simp, ⟨_, rfl⟩, ⟨_, rfl⟩, ⟨_, rfl⟩, ⟨_, rfl⟩, ⟨_, rfl⟩, ⟨_, rfl⟩, ⟨_, rfl⟩,
    ⟨_, rfl⟩⟩

theorem witness_FullSlotIsImmutable :
    ∃ t, exec (.sample 7#16) (sched .full .filling 0#10) = .next t ∧
      (sched .full .filling 0#10).slot .slot0 = .full ∧ t.slot .slot0 = .full := ⟨_, rfl, rfl, rfl⟩

/-- Each of the six transitions happens. -/
theorem witness_SlotTransitionTable :
    (after (exec .reset (sched .full .filling 0#10))).slot .slot0 = .empty ∧
      (after (exec (.beginCapture .slot0) State.reset)).slot .slot0 = .filling ∧
      (∃ t, exec (.consume .slot0) raceState = .next t ∧ t.slot .slot0 ≠ raceState.slot .slot0) ∧
      (after (exec (.sample 0#16) (sched .filling .empty 1023#10))).slots = ⟨.full, .filling⟩ ∧
      (after (exec (.sample 0#16) (sched .full .filling 1023#10))).slots = ⟨.filling, .full⟩ := by
  refine ⟨by decide, by decide, ?_, by decide, by decide⟩
  obtain ⟨t, h⟩ := raceState_consume
  refine ⟨t, h, ?_⟩
  rcases execConsume_cases ((exec_consume _ _).symm.trans h) with ⟨hn, -⟩ | ⟨-, frame, -, rfl⟩
  · exact absurd rfl hn
  · rw [State.slot_setSlot_same]
    decide

theorem witness_CaptureNeverStops :
    (Instr.sample 7#16).keepsCapture = true ∧ (∃ k, (sched .full .filling 0#10).slot k = .filling) ∧
      ∃ t, exec (.sample 7#16) (sched .full .filling 0#10) = .next t :=
  ⟨rfl, ⟨.slot1, rfl⟩, ⟨_, rfl⟩⟩

theorem witness_EventsPerOperation :
    (∃ t, exec (.consume .slot0) raceState = .next t) ∧ (Instr.consume .slot0).isStimulus = true ∧
      DecoderInv raceState := ⟨raceState_consume, rfl, raceState_inv.decoder⟩

theorem witness_SampleCommutesWithConsume :
    (sched .full .filling 0#10).wrIdx ≠ 1023#10 ∧ (sched .full .filling 1022#10).wrIdx ≠ 1023#10 := by decide

theorem witness_RaceAtFrameEnd :
    raceState.slot .slot0 = .full ∧ raceState.slot Slot.slot0.other = .filling ∧
      raceState.wrIdx = 1023#10 ∧ ∀ i, Written raceState.buf .slot0 i :=
  ⟨rfl, rfl, rfl, zeroBuf_written .slot0⟩

theorem witness_PollOrderIsIrrelevant : SlotsLegal raceState.slots := raceState_inv.slots

/-- Two states that differ in the scheduler. -/
theorem witness_ConsumeDependsOnFrameOnly :
    let b : State := { raceState with wrIdx := 7#10, ovrSticky := true }
    raceState.slot .slot0 = b.slot .slot0 ∧ readFrame raceState.buf .slot0 = readFrame b.buf .slot0 ∧
      sameConsumerSide raceState b ∧ ∃ t, exec (.consume .slot0) raceState = .next t :=
  ⟨rfl, rfl, ⟨rfl, rfl, rfl, rfl, rfl, rfl, rfl⟩, raceState_consume⟩

/-- Capture begun in slot 0 after reset. -/
def captured : State := { State.reset with slots := ⟨.filling, .empty⟩ }

theorem captured_eq : exec (.beginCapture .slot0) State.reset = .next captured := rfl

/-- Samples within the first frame. -/
theorem captured_run (n : Nat) (h : n ≤ 1023) :
    ∃ t, runOps (List.replicate n (.sample 0#16)) captured = .next t ∧ t.slots = ⟨.filling, .empty⟩ ∧
      t.wrIdx.toNat = n := by
  induction n with
  | zero => exact ⟨captured, rfl, rfl, rfl⟩
  | succ n ih =>
    obtain ⟨t, h1, h2, h3⟩ := ih (by omega)
    refine ⟨(t.storeSample .slot0 0#16).setWrIdx (t.wrIdx + 1#10), ?_, h2, ?_⟩
    · rw [List.replicate_succ', runOps_append_next h1]
      have hf : t.fillSlot = some .slot0 := by rw [State.fillSlot, h2]; rfl
      have hw : ¬t.wrIdx.toNat + 1 = Config.frameLen := by rw [h3]; show ¬n + 1 = 1024; omega
      rw [runOps_cons, exec_sample, execSample, hf]
      simp only [if_neg hw, runOps_nil]
    · rw [State.setWrIdx_wrIdx, BitVec.toNat_add, h3]
      simp
      omega

/-- The first frame complete. -/
theorem captured_frame :
    ∃ t, runOps (List.replicate 1024 (.sample 0#16)) captured = .next t ∧ t.slot .slot0 = .full := by
  obtain ⟨t, h1, h2, h3⟩ := captured_run 1023 (le_refl _)
  have hf : t.fillSlot = some .slot0 := by rw [State.fillSlot, h2]; rfl
  have hw : t.wrIdx.toNat + 1 = Config.frameLen := by rw [h3]
  rcases frameComplete_cases ((t.storeSample .slot0 0#16).setWrIdx 0#10) .slot0 with ⟨-, hc⟩ | ⟨ho, -⟩ | ⟨ho, -⟩
  · refine ⟨((((t.storeSample .slot0 0#16).setWrIdx 0#10).setSlot .slot0 .full).setSlot .slot1 .filling).emit
      (.frameReady .slot0), ?_, rfl⟩
    · rw [show 1024 = 1023 + 1 from rfl, List.replicate_succ', runOps_append_next h1, runOps_cons,
        exec_sample, execSample, hf]
      simp only [if_pos hw, hc, runOps_nil]
      rfl
  · simp [State.slot, SlotStates.get, Slot.other, h2] at ho
  · simp [State.slot, SlotStates.get, Slot.other, h2] at ho

theorem witness_SampleCountLaw :
    State.reset.slots = ⟨.empty, .empty⟩ ∧ exec (.beginCapture .slot0) State.reset = .next captured ∧
      (∀ i ∈ List.replicate 1023 (Instr.sample 0#16), i.keepsCapture = true) ∧
      ∃ t, runOps (List.replicate 1023 (.sample 0#16)) captured = .next t := by
  refine ⟨rfl, captured_eq, fun i hi => ?_, ?_⟩
  · rw [List.eq_of_mem_replicate hi]; rfl
  · obtain ⟨t, h, -⟩ := captured_run 1023 (le_refl _)
    exact ⟨t, h⟩

theorem witness_FullSlotHoldsNewestFrame :
    State.reset.slots = ⟨.empty, .empty⟩ ∧ exec (.beginCapture .slot0) State.reset = .next captured ∧
      (∀ i ∈ List.replicate 1024 (Instr.sample 0#16), i.keepsCapture = true) ∧
      ∃ t, runOps (List.replicate 1024 (.sample 0#16)) captured = .next t ∧ t.slot .slot0 = .full := by
  refine ⟨rfl, captured_eq, fun i hi => ?_, captured_frame⟩
  rw [List.eq_of_mem_replicate hi]; rfl

/-- The two ends of the range. -/
theorem witness_SilenceIsRejected :
    0 ≤ sampleValue 0#16 ∧ sampleValue 15#16 ≤ 15 ∧ ∀ x ∈ [0#16, 15#16], 0 ≤ sampleValue x ∧ sampleValue x ≤ 15 :=
  ⟨by decide, by decide, fun x hx => by
    rcases List.mem_pair.mp hx with rfl | rfl <;> decide⟩

/-- The two coefficients and the two ends of the range. -/
theorem witness_MagnitudeIsMultipleOf64 :
    legalCoeff Config.coeffSync = true ∧ legalCoeff Config.coeffPayload = true ∧
      legalCoeff 32768 = true ∧ legalCoeff (-32768) = true := by decide

theorem witness_DetectorWidthsSuffice :
    (List.replicate 1024 (0x8000#16 : Sample)).length ≤ 1024 ∧ legalCoeff (-32768) = true := by
  refine ⟨?_, by decide⟩
  rw [List.length_replicate]

theorem witness_CarrierFollowsPhase :
    (active .locked 0#8 0#3 8#32).phase = .locked ∧ State.reset.phase ≠ .locked ∧
      (active .failed 0#8 0#3 8#32).phase ≠ .locked := by decide

theorem witness_IdleFramesAdvanceNothing :
    State.reset.transferActive = false ∧ State.reset.win = 0b00000#5 := by decide

/-- Idle with the activating frame first, and active with any first frame. -/
theorem witness_FiveFramesMakeOneWindow :
    (State.reset.frameCnt = 0 ∧ (State.reset.transferActive = false → true = true)) ∧
      (active .locked 0#8 0#3 8#32).frameCnt = 0 ∧
      ((active .locked 0#8 0#3 8#32).transferActive = false → false = true) := by decide

/-- The three cases of the statement: a stop byte, another byte, and off a boundary. -/
theorem witness_DecodeFollowsTables :
    ((active .locked 0#8 7#3 23#32).bitsInByte = 7#3 ∧
        (BitVec.ofNat 8 (2 * (active .locked 0#8 7#3 23#32).pendingByte.toNat + if 0 > 2 then 1 else 0) : Byte) = 0#8) ∧
      ((active .locked 0x24#8 7#3 15#32).bitsInByte = 7#3 ∧
        (BitVec.ofNat 8 (2 * (active .locked 0x24#8 7#3 15#32).pendingByte.toNat + if 5 > 2 then 1 else 0) : Byte) ≠ 0#8) ∧
      (active .failed 2#8 2#3 2#32).bitsInByte ≠ 7#3 := by decide

theorem witness_DecodeEmitsAtMostOneEvent :
    DecoderInv (active .locked 0x24#8 7#3 15#32) ∧ (active .locked 0x24#8 7#3 15#32).transferActive = true :=
  ⟨lockedInv _ _ _ (by decide) (by decide), rfl⟩

theorem witness_LockMeansPreambleByte :
    DecoderInv (active .expectZero 0x55#8 7#3 7#32) ∧ (active .expectZero 0x55#8 7#3 7#32).phase ≠ .locked ∧
      ((active .expectZero 0x55#8 7#3 7#32).decodeWindow 0).phase = .locked :=
  ⟨preambleEndInv, by decide, by decide⟩

/-- A stop byte, a byte that is none, and a window off a byte boundary. -/
theorem witness_FailedUntilStopByte :
    ((active .failed 0#8 7#3 31#32).phase = .failed ∧ (active .failed 0#8 7#3 31#32).bitsInByte = 7#3 ∧
        (active .failed 0#8 7#3 31#32).pendingByte &&& 0x7F#8 = 0#8) ∧
      (active .failed 0x7F#8 7#3 7#32).phase = .failed ∧
        (active .failed 0x7F#8 7#3 7#32).pendingByte &&& 0x7F#8 ≠ 0#8 ∧
      (active .failed 2#8 2#3 2#32).phase = .failed ∧ (active .failed 2#8 2#3 2#32).bitsInByte ≠ 7#3 := by
  decide

/-- The windows of vector V5, whose majorities spell 0x48, and a stop byte. -/
def windowsOfH : List (List Bool) :=
  [[false, true, false, false, true], [true, true, false, true, false], [false, false, false, false, false],
   [true, false, false, false, false], [true, true, true, true, true], [false, false, true, true, false],
   [false, true, false, false, true], [false, false, false, false, false]] ++
    List.replicate 8 (List.replicate 5 false)

theorem witness_TransmissionIsDecoded :
    DecoderIdle State.reset ∧ (∀ b ∈ [0x48#8], b ≠ 0x00#8) ∧ (∀ w ∈ windowsOfH, w.length = 5) ∧
      windowsOfH.map (fun w => decide (onesIn w > 2)) = ([0x48#8] ++ [0x00#8]).flatMap byteBits :=
  ⟨resetIdle, fun b hb => by rw [List.mem_singleton.mp hb]; decide, by decide, by decide⟩

/-- Two idle blocks that differ in the window and in the scheduler. -/
theorem witness_StaleWindowBitsNeverMatter :
    DecoderIdle State.reset ∧ DecoderIdle { sched .full .filling 9#10 with win := 0b11111#5 } :=
  ⟨resetIdle, ⟨rfl, rfl, rfl, rfl, rfl, rfl⟩⟩

theorem raceState_input_inv (ws : List PortWord) : BlockInv { raceState with input := ws } where
  bufWf := raceState_inv.bufWf
  slots := raceState_inv.slots
  written := raceState_inv.written
  wrIdxIdle := raceState_inv.wrIdxIdle
  decoder :=
    { idle := raceState_inv.decoder.idle
      aligned := raceState_inv.decoder.aligned
      preambleShort := raceState_inv.decoder.preambleShort
      preambleTurn := raceState_inv.decoder.preambleTurn
      preambleBits := raceState_inv.decoder.preambleBits
      pendingSmall := raceState_inv.decoder.pendingSmall }
  events := raceState_inv.events

theorem witness_StepKeepsInvariant :
    BlockInv { raceState with input := [.stimulus 0x40000#20] } ∧
      ∃ t, step { raceState with input := [.stimulus 0x40000#20] } = .next t :=
  ⟨raceState_input_inv _, raceState_consume⟩

theorem witness_EveryStimulusCompletes :
    BlockInv raceState ∧ (Instr.consume .slot0).isStimulus = true ∧ (Instr.sample 7#16).isStimulus = true :=
  ⟨raceState_inv, rfl, rfl⟩

theorem witness_StepRunsDecodedInstruction :
    (State.reset.withFetchWord 24 0x20001).input = .stimulus 0x20001#20 :: [] ∧
      decode (.stimulus 0x20001#20) = .ok (.beginCapture .slot1) := by decide

/-- Section 6 and the note on ST1 there: status words from the codes of R77 and R78. -/
theorem test_status_words :
    (sched .filling .empty 0#10).st0 = 0x0001#16 ∧ (sched .empty .filling 0#10).st0 = 0x0004#16 ∧
      (sched .full .filling 0#10).st0 = 0x0006#16 ∧ (sched .filling .full 0#10).st0 = 0x0009#16 ∧
      (active .failed 0#8 0#3 8#32).st1 = 0x0007#16 ∧ (active .locked 0#8 0#3 8#32).st1 = 0x000E#16 := by
  decide

/-- Each of the two clauses. -/
theorem witness_StepWithoutOperation :
    State.reset.input = [] ∧ (State.reset.withFetchWord 24 0x50000).input = .stimulus 0x50000#20 :: [] ∧
      decode (.stimulus 0x50000#20) = .error .reservedOp := by decide

/-- Each word space. -/
theorem witness_FetchedTableWordRuns :
    decodeTableWord 24 0x3FC18 = some (.sample 0xFC18#16) ∧ decodeTableWord 20 0x40001 = some (.consume .slot1) ∧
      decodeTableWord 16 0x500 = some (.evtFrameReady .slot0) ∧ decodeTableWord 12 0x300 = some .evtTxEnded := by
  decide

theorem witness_EncodeOfDecode :
    decode (.stimulus 0x40001#20) = .ok (.consume .slot1) ∧ decode (.event 0x1FF#12) = .ok (.evtByte 0xFF#8) := by
  decide

/-- A reserved word and one that is not. -/
theorem witness_ReservedStimulusWordsRefused :
    (State.reset.withFetchWord 24 0xF1234).input = .stimulus 0xF1234#20 :: [] ∧
      (State.reset.withFetchWord 24 0x40001).input = .stimulus 0x40001#20 :: [] := by decide

theorem witness_EventWordsOfTable : (Event.byte 0x48#8).word = (Event.byte 0x48#8).word := rfl

end Sys2Proof.Tests
end

section
/-! SUPPORT. The proofs of the statements of spec/00_scope.md: the exact-integer shifts (R13), and that a
step performs the operation its first port word spells (R15, R71). -/

namespace Sys2Proof.Machine

/-! ## The shifts -/

/-- The integer division of `shr` is the floor of the rational quotient, for negative `v` too (R13). -/
theorem shr_eq_floor (v : Int) (n : Nat) : shr v n = ⌊(v : ℚ) / 2 ^ n⌋ :=
  calc shr v n = ⌊(v : ℚ) / ((2 ^ n : Nat) : ℚ)⌋ := (Rat.floor_intCast_div_natCast v (2 ^ n)).symm
    _ = ⌊(v : ℚ) / 2 ^ n⌋ := by rw [Nat.cast_pow, Nat.cast_ofNat]

theorem shl_eq_mul_pow (v : Int) (n : Nat) : shl v n = v * 2 ^ n := by
  rw [shl, Nat.cast_pow, Nat.cast_ofNat]

/-- Settles O29: the two general laws, then R13's own examples by evaluation. -/
theorem shiftsAreFloorAndProduct : Obligations.ShiftsAreFloorAndProduct :=
  ⟨shr_eq_floor, shl_eq_mul_pow, by decide, by decide, by decide⟩

/-! ## A step with a word waiting -/

theorem State.fetch_of_input_cons {s : State} {w : PortWord} {rest : List PortWord}
    (hinput : s.input = w :: rest) : s.fetch = some (w, { s with input := rest }) := by
  rw [State.fetch, hinput]

/-- A fetched word that decodes is performed on the state the fetch leaves. -/
theorem step_of_fetch_of_decode {s s' : State} {w : PortWord} {i : Instr}
    (hfetch : s.fetch = some (w, s')) (hdecode : decode w = .ok i) : step s = exec i s' := by
  simp only [step, hfetch, hdecode]

/-- Settles O48: the fetch takes the first word of the input, and the step performs what it spells. -/
theorem stepRunsDecodedInstruction : Obligations.StepRunsDecodedInstruction := by
  intro s w rest i hinput hdecode
  exact step_of_fetch_of_decode (State.fetch_of_input_cons hinput) hdecode

end Sys2Proof.Machine
end

section
/-! SUPPORT. The proofs of the statements of spec/10_state.md: a read of a word that nothing has written
(R22), the capture that never stops (R26), and the block invariant, at reset and over every step. The
invariant has three parts that no operation mixes: the scheduler's elements (R26, R108, R109), the
decoder's (R37), and what the event port has carried (R171). -/

namespace Sys2Proof.Machine

/-! ## Written words -/

/-- A write leaves every written word written. -/
theorem written_memWrite {m : Memory} {s : Slot} {i : BitVec 10} (h : Written m s i) (a : BufAddr)
    (x : Sample) : Written (memWrite m a x) s i := by
  unfold Written at h ⊢
  by_cases ha : bufAddr s i = a
  · simp [ha]
  · rwa [memRead_memWrite_other m x ha]

theorem written_memWrite_same (m : Memory) (s : Slot) (i : BitVec 10) (x : Sample) :
    Written (memWrite m (bufAddr s i) x) s i := by
  simp [Written]

/-- The reads stop at the first index whose word nothing has written. -/
theorem readWords_error_of_first {m : Memory} {s : Slot} {before : List Nat} {i : Nat}
    (after : List Nat) (hbefore : ∀ j ∈ before, Written m s (BitVec.ofNat 10 j))
    (hi : memRead m (bufAddr s (BitVec.ofNat 10 i)) = none) :
    readWords m s (before ++ i :: after) = .error (bufAddr s (BitVec.ofNat 10 i)) := by
  induction before with
  | nil => simp [readWords, hi]
  | cons j before ih =>
    obtain ⟨v, hv⟩ := Option.isSome_iff_exists.mp (hbefore j List.mem_cons_self)
    have hrest := ih fun k hk => hbefore k (List.mem_cons_of_mem _ hk)
    simp [readWords, hv, hrest]

/-- The indices of a frame, cut at one of them. -/
theorem range_frameLen_split {n : Nat} (hn : n < Config.frameLen) :
    ∃ after, List.range Config.frameLen = List.range n ++ n :: after := by
  obtain ⟨k, hk⟩ := Nat.exists_eq_add_of_lt hn
  refine ⟨(List.range k).map fun j => n + (j + 1), ?_⟩
  rw [hk, Nat.add_assoc, List.range_add, List.range_succ_eq_map]
  simp

/-- CONSUME's reads name the first word of the slot that nothing has written. -/
theorem readFrame_error_of_first {m : Memory} {s : Slot} {i : BitVec 10}
    (hi : memRead m (bufAddr s i) = none) (hbelow : ∀ j, j < i → Written m s j) :
    readFrame m s = .error (bufAddr s i) := by
  obtain ⟨after, hsplit⟩ := range_frameLen_split i.isLt
  have hofNat : BitVec.ofNat 10 i.toNat = i := by simp
  have hbefore : ∀ j ∈ List.range i.toNat, Written m s (BitVec.ofNat 10 j) := by
    intro j hj
    have hlt := List.mem_range.mp hj
    refine hbelow _ (BitVec.lt_def.mpr ?_)
    rwa [BitVec.toNat_ofNat, Nat.mod_eq_of_lt (lt_trans hlt i.isLt)]
  have herr := readWords_error_of_first after hbefore (hofNat.symm ▸ hi)
  rwa [← hsplit, hofNat] at herr

/-- Settles O11: the slot is FULL, so CONSUME reads it, and the read names the first unwritten word. -/
theorem consumeOfUnwrittenWordFaults : Obligations.ConsumeOfUnwrittenWordFaults := by
  intro k st i hfull hnone hbelow
  simp only [exec_consume, execConsume, hfull, readFrame_error_of_first hnone hbelow]

/-! ## What an operation leaves FILLING -/

theorem execBeginCapture_keeps_filling {s : Slot} {st t : State} (h : execBeginCapture s st = .next t)
    (hfill : ∃ k, st.slot k = .filling) : ∃ k, t.slot k = .filling := by
  rcases execBeginCapture_cases h with ⟨-, -, rfl⟩ | ⟨-, rfl⟩
  · exact ⟨s, st.slot_setSlot_same s .filling⟩
  · exact hfill

/-- At a frame's end the capture moves to the other slot (R103, R105). -/
theorem execSample_keeps_filling {x : Sample} {st t : State} (h : execSample x st = .next t)
    (hfill : ∃ k, st.slot k = .filling) : ∃ k, t.slot k = .filling := by
  rcases execSample_cases h with ⟨-, rfl⟩ | ⟨f, -, hf, -, rfl⟩ | ⟨f, -, -, -, -, rfl⟩ |
    ⟨f, -, -, -, -, rfl⟩
  · exact hfill
  · exact ⟨f, hf⟩
  · exact ⟨f.other, State.slot_setSlot_same _ f.other .filling⟩
  · exact ⟨f.other, State.slot_setSlot_same _ f.other .filling⟩

/-- CONSUME frees a FULL slot, which is not the FILLING one. -/
theorem execConsume_keeps_filling {s : Slot} {st t : State} (h : execConsume s st = .next t)
    (hfill : ∃ k, st.slot k = .filling) : ∃ k, t.slot k = .filling := by
  rcases execConsume_cases h with ⟨-, rfl⟩ | ⟨hfull, frame, -, rfl⟩
  · exact hfill
  · obtain ⟨k, hk⟩ := hfill
    have hne : k ≠ s := by
      rintro rfl
      cases hfull.symm.trans hk
    exact ⟨k, by rw [State.slot_setSlot_of_ne _ hne, (stepFrame_frame st frame).slot, hk]⟩

/-- Settles O20, by the operation. -/
theorem captureNeverStops : Obligations.CaptureNeverStops := by
  intro i st t hkeeps hfill h
  cases i with
  | nop =>
    obtain rfl := Host.Outcome.next.inj h
    exact hfill
  | beginCapture s => exact execBeginCapture_keeps_filling (exec_beginCapture s st ▸ h) hfill
  | sample x => exact execSample_keeps_filling (exec_sample x st ▸ h) hfill
  | consume s => exact execConsume_keeps_filling (exec_consume s st ▸ h) hfill
  | reset | evtByte d | evtSyncLost | evtTxEnded | evtOverrun s | evtFrameReady s => cases hkeeps

/-! ## The scheduler's part of the invariant -/

/-- The five legal pairs of R26 as seen from any slot `s`: a FULL slot stands beside a FILLING one, and
the two are not both FILLING. Checked pair by pair. -/
theorem slotsLegal_iff (t : SlotStates) (s : Slot) :
    SlotsLegal t ↔ (t.get s = .full → t.get s.other = .filling) ∧
      (t.get s.other = .full → t.get s = .filling) ∧
      (t.get s = .filling → t.get s.other ≠ .filling) := by
  obtain ⟨a, b⟩ := t
  cases s <;> cases a <;> cases b <;> simp [SlotsLegal, SlotStates.get, Slot.other]

/-- The part of `BlockInv` that reads the slot flags, the buffers and `wr_idx` only. -/
structure SchedulerInv (st : State) : Prop where
  bufWf : Memory.wf st.buf
  slots : SlotsLegal st.slots
  written : FramesWritten st
  wrIdxIdle : WrIdxIdle st

namespace SchedulerInv

theorem congr {a b : State} (h : SchedulerInv b) (hslots : a.slots = b.slots) (hbuf : a.buf = b.buf)
    (hwrIdx : a.wrIdx = b.wrIdx) : SchedulerInv a where
  bufWf := hbuf ▸ h.bufWf
  slots := hslots ▸ h.slots
  written := by
    intro s i
    rw [State.slot_congr hslots, hbuf, hwrIdx]
    exact h.written s i
  wrIdxIdle := by
    intro hidle
    rw [State.fillSlot_congr hslots] at hidle
    rw [hwrIdx]
    exact h.wrIdxIdle hidle

theorem of_sameScheduler {a b : State} (hsame : SameScheduler a b) (h : SchedulerInv b) :
    SchedulerInv a := by
  obtain ⟨hslots, hbuf, hwrIdx, -, -⟩ := hsame
  exact h.congr hslots hbuf hwrIdx

/-- Beside a FILLING slot stands one that is not (R26 a). -/
theorem other_ne_filling {st : State} (h : SchedulerInv st) {f : Slot} (hf : st.slot f = .filling) :
    st.slot f.other ≠ .filling := by
  obtain ⟨-, -, hone⟩ := (slotsLegal_iff st.slots f).mp h.slots
  exact hone hf

theorem other_filling_of_full {st : State} (h : SchedulerInv st) {s : Slot} (hs : st.slot s = .full) :
    st.slot s.other = .filling := by
  obtain ⟨hfull, -, -⟩ := (slotsLegal_iff st.slots s).mp h.slots
  exact hfull hs

end SchedulerInv

/-- `WrIdxIdle` says nothing while a slot is FILLING. -/
theorem wrIdxIdle_of_filling {st : State} {f : Slot} (hf : st.slot f = .filling) : WrIdxIdle st :=
  fun hnone => absurd hf (State.fillSlot_eq_none.mp hnone f)

theorem schedulerInv_resetBlock {st : State} (hbuf : Memory.wf st.buf) :
    SchedulerInv st.resetBlock where
  bufWf := hbuf
  slots := .inl rfl
  written := by
    intro s i
    have hempty : st.resetBlock.slot s = .empty := by cases s <;> rfl
    simp [hempty]
  wrIdxIdle := fun _ => rfl

/-- BEGIN_CAPTURE starts a capture only where both slots are EMPTY. -/
theorem execBeginCapture_keeps_schedulerInv {s : Slot} {st t : State}
    (h : execBeginCapture s st = .next t) (hinv : SchedulerInv st) : SchedulerInv t := by
  rcases execBeginCapture_cases h with ⟨hempty, hother, rfl⟩ | ⟨-, rfl⟩
  · have hnotFull : st.slot s.other ≠ .full := by
      intro hfull
      have hs := hinv.other_filling_of_full hfull
      rw [Slot.other_other, hempty] at hs
      cases hs
    have hself : ((st.setSlot s .filling).setWrIdx 0#10).slot s = .filling :=
      st.slot_setSlot_same s .filling
    have hrest : ((st.setSlot s .filling).setWrIdx 0#10).slot s.other = st.slot s.other :=
      st.slot_setSlot_other s .filling
    refine ⟨hinv.bufWf, (slotsLegal_iff _ s).mpr ⟨?_, ?_, ?_⟩, ?_, wrIdxIdle_of_filling hself⟩
    · intro hfull
      cases hself.symm.trans hfull
    · intro hfull
      exact absurd (hrest.symm.trans hfull) hnotFull
    · intro _ hfilling
      exact hother (hrest.symm.trans hfilling)
    · intro k i
      refine ⟨fun hfull => ?_, fun _ hlt => absurd hlt (Nat.not_lt_zero _)⟩
      rcases Slot.eq_or_eq_other s k with rfl | rfl
      · cases hself.symm.trans hfull
      · exact absurd (hrest.symm.trans hfull) hnotFull
  · exact hinv

/-- Within a frame the word stored is the one at `wr_idx`, and `wr_idx` moves past it (R102). -/
theorem storeWithinFrame_keeps_schedulerInv {st : State} {f : Slot} (x : Sample)
    (hf : st.slot f = .filling) (hlast : st.wrIdx ≠ 1023#10) (hinv : SchedulerInv st) :
    SchedulerInv ((st.storeSample f x).setWrIdx (st.wrIdx + 1#10)) := by
  have hsucc : (st.wrIdx + 1#10).toNat = st.wrIdx.toNat + 1 := by bv_omega
  have hstill : ((st.storeSample f x).setWrIdx (st.wrIdx + 1#10)).slot f = .filling := hf
  refine ⟨memWrite_wf hinv.bufWf _ _, hinv.slots, fun k i => ⟨fun hfull => ?_, fun hfilling hlt => ?_⟩,
    wrIdxIdle_of_filling hstill⟩
  · exact written_memWrite ((hinv.written k i).1 hfull) _ _
  · have hk : k = f := by
      rcases Slot.eq_or_eq_other f k with rfl | rfl
      · rfl
      · exact absurd hfilling (hinv.other_ne_filling hf)
    subst hk
    rw [State.setWrIdx_wrIdx, hsucc] at hlt
    rcases Nat.lt_succ_iff_lt_or_eq.mp hlt with hlt | heq
    · exact written_memWrite ((hinv.written k i).2 hf hlt) _ _
    · rw [BitVec.eq_of_toNat_eq heq]
      exact written_memWrite_same _ _ _ _

/-- The last word of a frame makes its slot FULL and the other slot FILLING from word 0, whether the
other slot was EMPTY (R103) or FULL (R105). -/
theorem handOver_keeps_schedulerInv {st : State} {f : Slot} (x : Sample) (hf : st.slot f = .filling)
    (hlast : st.wrIdx = 1023#10) (hinv : SchedulerInv st) :
    SchedulerInv
      ((((st.storeSample f x).setWrIdx 0#10).setSlot f .full).setSlot f.other .filling) := by
  set t := (((st.storeSample f x).setWrIdx 0#10).setSlot f .full).setSlot f.other .filling with ht
  have hself : t.slot f = .full := by rw [ht, State.slot_setSlot_of_other, State.slot_setSlot_same]
  have hother : t.slot f.other = .filling := State.slot_setSlot_same _ _ _
  refine ⟨memWrite_wf hinv.bufWf _ _, (slotsLegal_iff _ f).mpr ⟨fun _ => hother, ?_, ?_⟩, ?_,
    wrIdxIdle_of_filling hother⟩
  · intro hfull
    cases hother.symm.trans hfull
  · intro hfilling
    cases hself.symm.trans hfilling
  · intro k i
    refine ⟨fun hfull => ?_, fun _ hlt => absurd hlt (Nat.not_lt_zero _)⟩
    rcases Slot.eq_or_eq_other f k with rfl | rfl
    · by_cases hi : i = st.wrIdx
      · rw [hi]
        exact written_memWrite_same _ _ _ _
      · have hlt : i.toNat < st.wrIdx.toNat := by bv_omega
        exact written_memWrite ((hinv.written k i).2 hf hlt) _ _
    · cases hother.symm.trans hfull

theorem execSample_keeps_schedulerInv {x : Sample} {st t : State} (h : execSample x st = .next t)
    (hinv : SchedulerInv st) : SchedulerInv t := by
  rcases execSample_cases h with ⟨-, rfl⟩ | ⟨f, -, hf, hwrIdx, rfl⟩ | ⟨f, -, hf, hwrIdx, -, rfl⟩ |
    ⟨f, -, hf, hwrIdx, -, rfl⟩
  · exact hinv
  · exact storeWithinFrame_keeps_schedulerInv x hf hwrIdx hinv
  · exact (handOver_keeps_schedulerInv x hf hwrIdx hinv).congr rfl rfl rfl
  · exact (handOver_keeps_schedulerInv x hf hwrIdx hinv).congr rfl rfl rfl

/-- Freeing a FULL slot leaves the capture beside it as it was. -/
theorem setSlot_empty_keeps_schedulerInv {st : State} {s : Slot} (hs : st.slot s = .full)
    (hinv : SchedulerInv st) : SchedulerInv (st.setSlot s .empty) := by
  have hself : (st.setSlot s .empty).slot s = .empty := st.slot_setSlot_same s .empty
  have hother : (st.setSlot s .empty).slot s.other = .filling := by
    rw [State.slot_setSlot_other, hinv.other_filling_of_full hs]
  refine ⟨hinv.bufWf, (slotsLegal_iff _ s).mpr ⟨?_, ?_, ?_⟩, ?_, wrIdxIdle_of_filling hother⟩
  · intro hfull
    cases hself.symm.trans hfull
  · intro hfull
    cases hother.symm.trans hfull
  · intro hfilling
    cases hself.symm.trans hfilling
  · intro k i
    rcases Slot.eq_or_eq_other s k with rfl | rfl
    · simp [hself]
    · rw [State.slot_setSlot_other]
      exact hinv.written s.other i

theorem execConsume_keeps_schedulerInv {s : Slot} {st t : State} (h : execConsume s st = .next t)
    (hinv : SchedulerInv st) : SchedulerInv t := by
  rcases execConsume_cases h with ⟨-, rfl⟩ | ⟨hfull, frame, -, rfl⟩
  · exact hinv
  · have hframe := stepFrame_frame st frame
    refine setSlot_empty_keeps_schedulerInv ?_ (hinv.of_sameScheduler hframe)
    rw [hframe.slot, hfull]

/-! ## The decoder's part of the invariant -/

theorem decoderInv_congr {a b : State} (h : DecoderInv b) (hsame : sameConsumerSide a b) :
    DecoderInv a := by
  obtain ⟨-, hframeCnt, hphase, hactive, hindex, hpending, hbits⟩ := hsame
  obtain ⟨hidle, haligned, hshort, hturn, hpreamble, hsmall⟩ := h
  constructor <;>
    simpa only [DecoderIdle, InPreamble, hframeCnt, hphase, hactive, hindex, hpending, hbits]

/-- The decoder's elements at their reset values meet R37. -/
theorem decoderInv_of_idle {st : State} (h : DecoderIdle st) : DecoderInv st := by
  obtain ⟨-, hphase, -, hindex, hpending, hbits⟩ := id h
  exact
    { idle := fun _ => h
      aligned := by rw [hbits, hindex]; decide
      preambleShort := fun _ => by rw [hindex]; decide
      preambleTurn := fun _ => by simp [hphase, hbits]
      preambleBits := fun _ => by rw [hpending, hbits]; decide
      pendingSmall := by rw [hpending, hbits]; decide }

/-- R37 between a window's bit being taken in (R162) and the window being counted (R164): `bits_in_byte`
is one ahead of `bit_window_index`, and `pending_byte` may hold a whole byte. -/
structure BitTaken (st : State) : Prop where
  aligned : st.bitsInByte = st.bitWindowIndex.extractLsb' 0 3 + 1#3
  preambleShort : InPreamble st → st.bitWindowIndex.toNat < 8
  preambleTurn : InPreamble st → (st.phase = .expectOne ↔ st.bitsInByte.toNat % 2 = 0)
  preambleBits : InPreamble st → st.pendingByte = 0xAA#8 >>> (7 - st.bitWindowIndex.toNat)
  pendingSmall : st.bitsInByte ≠ 0#3 → st.pendingByte.toNat < 2 ^ st.bitsInByte.toNat

theorem extract_low_succ (n : BitVec 32) :
    (n + 1#32).extractLsb' 0 3 = n.extractLsb' 0 3 + 1#3 := by
  apply BitVec.eq_of_toNat_eq
  simp only [BitVec.extractLsb'_toNat, BitVec.toNat_add, BitVec.toNat_ofNat, Nat.shiftRight_zero]
  omega

/-- A byte of fewer than eight bits takes one more bit without losing any (R162). -/
theorem takeBit_toNat_lt {p : Byte} {n : Nat} (b : Bool) (h : p.toNat < 2 ^ n) :
    ((p <<< 1) ||| (bitOf b).zeroExtend 8).toNat < 2 ^ (n + 1) := by
  rw [BitVec.toNat_or]
  apply Nat.or_lt_two_pow
  · rw [BitVec.toNat_shiftLeft, Nat.shiftLeft_eq, Nat.pow_succ]
    omega
  · have hbit : ((bitOf b).zeroExtend 8).toNat < 2 ^ 1 := by cases b <;> decide
    exact lt_of_lt_of_le hbit (Nat.pow_le_pow_right (by decide) (by omega))

/-- Everything step 1 can do (R161): each turn of the preamble on its exact count, or a phase outside
the preamble. -/
theorem checkPreamble_cases (st : State) (sum : Nat) :
    (st.phase = .expectOne ∧ sum = 5 ∧ st.checkPreamble sum = { st with phase := .expectZero }) ∨
    (st.phase = .expectZero ∧ sum = 0 ∧ st.checkPreamble sum = { st with phase := .expectOne }) ∨
    ¬InPreamble (st.checkPreamble sum) := by
  unfold State.checkPreamble
  cases hphase : st.phase with
  | locked => simp [InPreamble, hphase]
  | failed => simp [InPreamble, hphase]
  | expectOne => by_cases hsum : sum = 5 <;> simp [InPreamble, hsum]
  | expectZero => by_cases hsum : sum = 0 <;> simp [InPreamble, hsum]

/-- `bit_window_index` in the preamble is the number of bits taken (R37 c, e). -/
theorem bitsInByte_toNat_of_inPreamble {st : State} (hinv : DecoderInv st) (hpre : InPreamble st) :
    st.bitsInByte.toNat = st.bitWindowIndex.toNat := by
  rw [hinv.aligned, BitVec.extractLsb'_toNat, Nat.shiftRight_zero]
  exact Nat.mod_eq_of_lt (hinv.preambleShort hpre)

/-- A 1 after an even number of preamble bits. -/
theorem preamblePrefix_takeOne (n : BitVec 3) (h : n.toNat % 2 = 0) :
    (preamblePrefix n <<< 1) ||| (bitOf true).zeroExtend 8 = 0xAA#8 >>> (7 - n.toNat) := by
  revert n
  decide

/-- A 0 after an odd number of preamble bits. -/
theorem preamblePrefix_takeZero (n : BitVec 3) (h : n.toNat % 2 ≠ 0) :
    (preamblePrefix n <<< 1) ||| (bitOf false).zeroExtend 8 = 0xAA#8 >>> (7 - n.toNat) := by
  revert n
  decide

/-- One more bit turns the parity of `bits_in_byte`. -/
theorem succ_toNat_even_iff (n : BitVec 3) : (n + 1#3).toNat % 2 = 0 ↔ n.toNat % 2 ≠ 0 := by
  revert n
  decide

theorem succ_toNat_of_ne_zero {n : BitVec 3} (h : n + 1#3 ≠ 0#3) : (n + 1#3).toNat = n.toNat + 1 := by
  revert n
  decide

/-- Steps 1 and 2 of DECODE: a preamble that stays valid has taken its next bit. -/
theorem bitTaken_of_decoderInv {st : State} (hinv : DecoderInv st) (sum : Nat) :
    BitTaken ((st.checkPreamble sum).accumulateBit (majorityBit sum)) := by
  obtain ⟨-, -, -, hpending, hbits, hindex⟩ := checkPreamble_frame st sum
  have haligned : st.bitsInByte + 1#3 = st.bitWindowIndex.extractLsb' 0 3 + 1#3 := by
    rw [hinv.aligned]
  have hsmall (hne : st.bitsInByte + 1#3 ≠ 0#3) :
      ((st.pendingByte <<< 1) ||| (bitOf (majorityBit sum)).zeroExtend 8).toNat
        < 2 ^ (st.bitsInByte + 1#3).toNat := by
    rw [succ_toNat_of_ne_zero hne]
    exact takeBit_toNat_lt _ hinv.pendingSmall
  rcases checkPreamble_cases st sum with ⟨hphase, hsum, hnext⟩ | ⟨hphase, hsum, hnext⟩ | hleft
  · have hpre : InPreamble st := .inl hphase
    have heven : st.bitsInByte.toNat % 2 = 0 := (hinv.preambleTurn hpre).mp hphase
    rw [hnext]
    refine ⟨haligned, fun _ => hinv.preambleShort hpre, fun _ => ?_, fun _ => ?_, hsmall⟩
    · exact iff_of_false nofun fun h => (succ_toNat_even_iff _).mp h heven
    · have hbyte := preamblePrefix_takeOne st.bitsInByte heven
      rw [← hinv.preambleBits hpre, bitsInByte_toNat_of_inPreamble hinv hpre] at hbyte
      rw [hsum]
      exact hbyte
  · have hpre : InPreamble st := .inr hphase
    have hodd : st.bitsInByte.toNat % 2 ≠ 0 := by
      intro heven
      cases hphase.symm.trans ((hinv.preambleTurn hpre).mpr heven)
    rw [hnext]
    refine ⟨haligned, fun _ => hinv.preambleShort hpre, fun _ => ?_, fun _ => ?_, hsmall⟩
    · exact iff_of_true rfl ((succ_toNat_even_iff _).mpr hodd)
    · have hbyte := preamblePrefix_takeZero st.bitsInByte hodd
      rw [← hinv.preambleBits hpre, bitsInByte_toNat_of_inPreamble hinv hpre] at hbyte
      rw [hsum]
      exact hbyte
  · refine ⟨?_, fun hpre => absurd hpre hleft, fun hpre => absurd hpre hleft,
      fun hpre => absurd hpre hleft, ?_⟩
    · rw [State.accumulateBit_bitsInByte, State.accumulateBit_bitWindowIndex, hbits, hindex, haligned]
    · rwa [State.accumulateBit_bitsInByte, State.accumulateBit_pendingByte, hbits, hpending]

/-- At a byte boundary the preamble is over: its eighth bit leaves EXPECT_ONE with the byte 0xAA. -/
theorem preamble_complete {st : State} (h : BitTaken st) (hbits : st.bitsInByte = 0#3)
    (hpre : InPreamble st) : st.phase = .expectOne ∧ st.pendingByte = 0xAA#8 := by
  have hindex : st.bitWindowIndex.toNat = 7 := by
    have hshort := h.preambleShort hpre
    have haligned := congrArg BitVec.toNat (hbits.symm.trans h.aligned)
    simp only [BitVec.toNat_add, BitVec.extractLsb'_toNat, BitVec.toNat_ofNat,
      Nat.shiftRight_zero] at haligned
    omega
  refine ⟨(h.preambleTurn hpre).mpr (by rw [hbits]; decide), ?_⟩
  rw [h.preambleBits hpre, hindex]
  decide

/-- The delivery of a byte that is not the stop byte leaves no preamble phase (R163). -/
theorem not_inPreamble_deliverByte {st : State} (h : BitTaken st) (hbits : st.bitsInByte = 0#3)
    (hstop : st.pendingByte ≠ Config.stopByte) : ¬InPreamble st.deliverByte := by
  unfold State.deliverByte
  rw [if_neg hstop]
  cases hphase : st.phase with
  | expectOne => simp [InPreamble]
  | locked => simp [InPreamble, hphase]
  | failed => simp [InPreamble, hphase]
  | expectZero =>
    obtain ⟨hone, -⟩ := preamble_complete h hbits (.inr hphase)
    cases hphase.symm.trans hone

/-- Step 4 off a byte boundary. -/
theorem decoderInv_countWindow {st : State} (h : BitTaken st) (hactive : st.transferActive = true)
    (hbits : st.bitsInByte ≠ 0#3) : DecoderInv st.countWindow := by
  have haligned : st.bitsInByte = (st.bitWindowIndex + 1#32).extractLsb' 0 3 := by
    rw [extract_low_succ, h.aligned]
  have hcount (hpre : InPreamble st) :
      (st.bitWindowIndex + 1#32).toNat = st.bitWindowIndex.toNat + 1 ∧
        st.bitsInByte.toNat = st.bitWindowIndex.toNat + 1 := by
    have hshort := h.preambleShort hpre
    have hne : st.bitsInByte.toNat ≠ 0 := fun h0 => hbits (BitVec.eq_of_toNat_eq h0)
    have hlow := congrArg BitVec.toNat haligned
    simp only [BitVec.extractLsb'_toNat, BitVec.toNat_add, BitVec.toNat_ofNat,
      Nat.shiftRight_zero] at hlow ⊢
    omega
  refine ⟨fun hidle => ?_, haligned, fun hpre => ?_, h.preambleTurn, fun hpre => ?_,
    h.pendingSmall hbits⟩
  · cases hactive.symm.trans hidle
  · obtain ⟨hindex, hnum⟩ := hcount hpre
    rw [State.countWindow_bitWindowIndex, hindex, ← hnum]
    exact st.bitsInByte.isLt
  · obtain ⟨-, hnum⟩ := hcount hpre
    rw [State.countWindow_pendingByte, h.preambleBits hpre, preamblePrefix,
      State.countWindow_bitsInByte, hnum]
    congr 1
    omega

/-- Step 4 at a byte boundary, after a byte that is not the stop byte. -/
theorem decoderInv_countWindow_of_byte {st : State} (h : BitTaken st)
    (hactive : st.transferActive = true) (hbits : st.bitsInByte = 0#3)
    (hstop : st.pendingByte ≠ Config.stopByte) : DecoderInv st.byteBoundary.countWindow := by
  obtain ⟨-, -, hactive', hbits', hindex'⟩ := byteBoundary_frame st
  have hbyte : st.byteBoundary = { st.deliverByte with pendingByte := 0#8 } := if_pos hbits
  have hleft : ¬InPreamble st.byteBoundary.countWindow := by
    rw [hbyte]
    exact not_inPreamble_deliverByte h hbits hstop
  refine ⟨fun hidle => ?_, ?_, fun hpre => absurd hpre hleft, fun hpre => absurd hpre hleft,
    fun hpre => absurd hpre hleft, ?_⟩
  · cases (hactive'.trans hactive).symm.trans hidle
  · rw [State.countWindow_bitsInByte, State.countWindow_bitWindowIndex, hbits', hindex',
      extract_low_succ, h.aligned]
  · rw [hbyte]
    exact Nat.two_pow_pos _

/-- DECODE at the boundary frame of a bit window keeps R37 (R160). -/
theorem decodeWindow_keeps_decoderInv {st : State} (hinv : DecoderInv st)
    (hactive : st.transferActive = true) (hcnt : st.frameCnt = 0) (sum : Nat) :
    DecoderInv (st.decodeWindow sum) := by
  obtain ⟨-, -, hactive', -⟩ := checkPreamble_frame st sum
  have hframeCnt : (st.decodeWindow sum).frameCnt = 0 := by
    obtain ⟨-, -, hsame⟩ := decodeWindow_frame st sum
    exact hsame.trans hcnt
  have htaken := bitTaken_of_decoderInv hinv sum
  unfold State.decodeWindow at hframeCnt ⊢
  dsimp only at hframeCnt ⊢
  set bits := (st.checkPreamble sum).accumulateBit (majorityBit sum)
  have hbitsActive : bits.transferActive = true := hactive'.trans hactive
  by_cases hstop : bits.stopSeen = true
  · rw [if_pos hstop] at hframeCnt ⊢
    exact decoderInv_of_idle ⟨rfl, rfl, hframeCnt, rfl, rfl, rfl⟩
  · rw [if_neg hstop]
    by_cases hbits : bits.bitsInByte = 0#3
    · exact decoderInv_countWindow_of_byte htaken hbitsActive hbits
        (by simpa [State.stopSeen, hbits] using hstop)
    · rw [show bits.byteBoundary = bits from if_neg hbits]
      exact decoderInv_countWindow htaken hbitsActive hbits

/-- While a transfer is active, R37 does not read `win` and `frame_cnt`. -/
theorem decoderInv_withFrame {st : State} (hinv : DecoderInv st) (hactive : st.transferActive = true)
    (raw : Bool) (c : Fin 5) : DecoderInv { st.shiftWin raw with frameCnt := c } :=
  { hinv with idle := fun hidle => by cases hactive.symm.trans hidle }

theorem decoderInv_shiftWin {st : State} (hinv : DecoderInv st) (raw : Bool) :
    DecoderInv (st.shiftWin raw) := { hinv with }

theorem decoderInv_activate {st : State} (hinv : DecoderInv st) : DecoderInv st.activate :=
  { hinv with idle := nofun }

theorem vote_keeps_decoderInv {st : State} (hinv : DecoderInv st) (raw : Bool) :
    DecoderInv (st.vote raw) := by
  rcases vote_cases st raw with ⟨-, -, h⟩ | ⟨-, -, h⟩ | ⟨hactive, -, h⟩ | ⟨hactive, -, h⟩ <;> rw [h]
  · exact decoderInv_shiftWin hinv raw
  · exact decoderInv_activate (decoderInv_shiftWin hinv raw)
  · exact decoderInv_withFrame hinv hactive raw _
  · exact decodeWindow_keeps_decoderInv (decoderInv_withFrame hinv hactive raw 0) hactive rfl _

/-! ## What the event port has carried -/

theorem eventsLegal_append {st t : State} {es : List Event} (hlegal : EventsLegal st)
    (h : t.events = st.events ++ es) (hes : .byte Config.stopByte ∉ es) : EventsLegal t := by
  intro e he heq
  rw [h, List.mem_append] at he
  rcases he with he | he
  · exact hlegal e he heq
  · exact hes (heq ▸ he)

theorem eventsLegal_emit {st : State} {e : Event} (hlegal : EventsLegal st)
    (he : e ≠ .byte Config.stopByte) : EventsLegal (st.emit e) :=
  eventsLegal_append hlegal rfl (by simpa using he.symm)

theorem vote_keeps_eventsLegal {st : State} (hlegal : EventsLegal st) (raw : Bool) :
    EventsLegal (st.vote raw) := by
  obtain ⟨as, bs, hevents, has, hbs⟩ := vote_events st raw
  refine eventsLegal_append hlegal hevents fun hmem => ?_
  rcases List.mem_append.mp hmem with hmem | hmem
  · rcases has with rfl | rfl <;> simp at hmem
  · rcases hbs with rfl | rfl | ⟨d, hd, rfl⟩
    · simp at hmem
    · simp at hmem
    · exact hd (Event.byte.inj (List.mem_singleton.mp hmem)).symm

theorem execSample_keeps_eventsLegal {x : Sample} {st t : State} (h : execSample x st = .next t)
    (hlegal : EventsLegal st) : EventsLegal t := by
  rcases execSample_cases h with ⟨-, rfl⟩ | ⟨f, -, -, -, rfl⟩ | ⟨f, -, -, -, -, rfl⟩ |
    ⟨f, -, -, -, -, rfl⟩
  · exact hlegal
  · exact hlegal
  · exact eventsLegal_append hlegal rfl (by simp)
  · exact eventsLegal_append hlegal
      (List.append_assoc st.events [.overrun f.other] [.frameReady f]) (by simp)

/-! ## The block invariant -/

theorem blockInv_iff {st : State} :
    BlockInv st ↔ SchedulerInv st ∧ DecoderInv st ∧ EventsLegal st :=
  ⟨fun ⟨hbuf, hslots, hwritten, hidle, hdecoder, hevents⟩ =>
      ⟨⟨hbuf, hslots, hwritten, hidle⟩, hdecoder, hevents⟩,
    fun ⟨⟨hbuf, hslots, hwritten, hidle⟩, hdecoder, hevents⟩ =>
      ⟨hbuf, hslots, hwritten, hidle, hdecoder, hevents⟩⟩

/-- RESET meets the invariant, whatever the block was doing (R220). -/
theorem blockInv_resetBlock {st : State} (hbuf : Memory.wf st.buf) (hevents : EventsLegal st) :
    BlockInv st.resetBlock :=
  blockInv_iff.mpr
    ⟨schedulerInv_resetBlock hbuf, decoderInv_of_idle ⟨rfl, rfl, rfl, rfl, rfl, rfl⟩, hevents⟩

/-- Settles O45: the reset state is what RESET makes of itself, with no word listed and no event. -/
theorem resetMeetsInvariant : Obligations.ResetMeetsInvariant :=
  ⟨blockInv_resetBlock reset_buf_wf nofun, rfl, rfl, rfl, rfl,
    ⟨rfl, rfl, rfl, rfl, rfl, rfl⟩, fun _ => rfl, rfl, rfl⟩

theorem emit_keeps_blockInv {st : State} {e : Event} (hinv : BlockInv st)
    (he : e ≠ .byte Config.stopByte) : BlockInv (st.emit e) := by
  obtain ⟨hscheduler, hdecoder, hevents⟩ := blockInv_iff.mp hinv
  exact blockInv_iff.mpr
    ⟨hscheduler.congr rfl rfl rfl, { hdecoder with }, eventsLegal_emit hevents he⟩

theorem execBeginCapture_keeps_blockInv {s : Slot} {st t : State}
    (h : execBeginCapture s st = .next t) (hinv : BlockInv st) : BlockInv t := by
  obtain ⟨hscheduler, hdecoder, hevents⟩ := blockInv_iff.mp hinv
  refine blockInv_iff.mpr ⟨execBeginCapture_keeps_schedulerInv h hscheduler, ?_⟩
  rcases execBeginCapture_cases h with ⟨-, -, rfl⟩ | ⟨-, rfl⟩
  · exact ⟨{ hdecoder with }, hevents⟩
  · exact ⟨hdecoder, hevents⟩

/-- SAMPLE writes no element of the consumer's side (R60). -/
theorem execSample_sameConsumerSide {x : Sample} {st t : State} (h : execSample x st = .next t) :
    sameConsumerSide t st := by
  rcases execSample_cases h with ⟨-, rfl⟩ | ⟨f, -, -, -, rfl⟩ | ⟨f, -, -, -, -, rfl⟩ |
    ⟨f, -, -, -, -, rfl⟩ <;> exact ⟨rfl, rfl, rfl, rfl, rfl, rfl, rfl⟩

theorem execSample_keeps_blockInv {x : Sample} {st t : State} (h : execSample x st = .next t)
    (hinv : BlockInv st) : BlockInv t := by
  obtain ⟨hscheduler, hdecoder, hevents⟩ := blockInv_iff.mp hinv
  exact blockInv_iff.mpr ⟨execSample_keeps_schedulerInv h hscheduler,
    decoderInv_congr hdecoder (execSample_sameConsumerSide h), execSample_keeps_eventsLegal h hevents⟩

theorem execConsume_keeps_blockInv {s : Slot} {st t : State} (h : execConsume s st = .next t)
    (hinv : BlockInv st) : BlockInv t := by
  obtain ⟨hscheduler, hdecoder, hevents⟩ := blockInv_iff.mp hinv
  refine blockInv_iff.mpr ⟨execConsume_keeps_schedulerInv h hscheduler, ?_⟩
  rcases execConsume_cases h with ⟨-, rfl⟩ | ⟨-, frame, -, rfl⟩
  · exact ⟨hdecoder, hevents⟩
  · exact ⟨{ vote_keeps_decoderInv hdecoder _ with },
      vote_keeps_eventsLegal hevents (st.rawBit frame)⟩

/-- Every operation keeps the block invariant. -/
theorem exec_keeps_blockInv {i : Instr} {st t : State} (h : exec i st = .next t)
    (hinv : BlockInv st) : BlockInv t := by
  cases i with
  | nop =>
    obtain rfl := Host.Outcome.next.inj h
    exact hinv
  | reset =>
    obtain rfl := Host.Outcome.next.inj h
    exact blockInv_resetBlock hinv.bufWf hinv.events
  | beginCapture s => exact execBeginCapture_keeps_blockInv (exec_beginCapture s st ▸ h) hinv
  | sample x => exact execSample_keeps_blockInv (exec_sample x st ▸ h) hinv
  | consume s => exact execConsume_keeps_blockInv (exec_consume s st ▸ h) hinv
  | evtByte d =>
    obtain ⟨hd, rfl⟩ := execEvtByte_cases h
    exact emit_keeps_blockInv hinv (by simpa using hd)
  | evtSyncLost | evtTxEnded | evtOverrun s | evtFrameReady s =>
    obtain rfl := Host.Outcome.next.inj h
    exact emit_keeps_blockInv hinv nofun

/-- The invariant does not read the input. -/
theorem blockInv_withInput {st : State} (hinv : BlockInv st) (ws : List PortWord) :
    BlockInv { st with input := ws } := by
  obtain ⟨hscheduler, hdecoder, hevents⟩ := blockInv_iff.mp hinv
  exact blockInv_iff.mpr ⟨hscheduler.congr rfl rfl rfl, { hdecoder with }, hevents⟩

/-- Everything a step that answers a next state can do: nothing, or the operation its word spells. -/
theorem step_cases {s t : State} (h : step s = .next t) :
    t = s ∨ ∃ i rest, exec i { s with input := rest } = .next t := by
  unfold step at h
  rcases fetch_cases s with ⟨-, hfetch⟩ | ⟨w, rest, -, hfetch⟩ <;> simp only [hfetch] at h
  · exact .inl (Host.Outcome.next.inj h).symm
  · cases hdecode : decode w with
    | error e => simp [hdecode] at h
    | ok i => exact .inr ⟨i, rest, by simpa only [hdecode] using h⟩

/-- Settles O46: a step does nothing or performs an operation on the state without its first word, and
every operation keeps the invariant. -/
theorem stepKeepsInvariant : Obligations.StepKeepsInvariant := by
  intro s t hinv h
  rcases step_cases h with rfl | ⟨i, rest, hexec⟩
  · exact hinv
  · exact exec_keeps_blockInv hexec (blockInv_withInput hinv rest)

end Sys2Proof.Machine
end

section
/-! SUPPORT. The proofs of the statements of spec/20_memory.md: which elements an operation may write
(R55 to R60), and that a FULL slot is immutable (R58, R62). The one word any operation can write is the
one at `wr_idx` of the FILLING slot. -/

namespace Sys2Proof

/-- The row of the opcode table that spells an event (R76). -/
def Event.row : Event → Instr
  | .byte d => .evtByte d
  | .syncLost => .evtSyncLost
  | .txEnded => .evtTxEnded
  | .overrun s => .evtOverrun s
  | .frameReady s => .evtFrameReady s

theorem Event.row_isStimulus (e : Event) : e.row.isStimulus = false := by cases e <;> rfl

namespace Machine

/-! ## One operation taken apart -/

/-- An event row that completes emits its event (R11, R199; log 3). -/
theorem exec_row {e : Event} {st t : State} (h : exec e.row st = .next t) : t = st.emit e := by
  cases e with
  | byte d =>
    obtain ⟨-, ht⟩ := execEvtByte_cases h
    exact ht
  | syncLost | txEnded | overrun s | frameReady s => exact (Host.Outcome.next.inj h).symm

/-- Everything an operation that answers a next state can be, the five event rows as one case. -/
theorem exec_cases {i : Instr} {st t : State} (h : exec i st = .next t) :
    (∃ e : Event, i = e.row ∧ t = st.emit e) ∨ (i = .nop ∧ t = st) ∨ (i = .reset ∧ t = st.resetBlock) ∨
    (∃ s, i = .beginCapture s ∧ execBeginCapture s st = .next t) ∨
    (∃ x, i = .sample x ∧ execSample x st = .next t) ∨
    (∃ k, i = .consume k ∧ execConsume k st = .next t) := by
  have ofRow (e : Event) (hi : i = e.row) : ∃ e : Event, i = e.row ∧ t = st.emit e :=
    ⟨e, hi, exec_row (hi ▸ h)⟩
  cases i with
  | nop => exact .inr (.inl ⟨rfl, (Host.Outcome.next.inj h).symm⟩)
  | reset => exact .inr (.inr (.inl ⟨rfl, (Host.Outcome.next.inj h).symm⟩))
  | beginCapture s => exact .inr (.inr (.inr (.inl ⟨s, rfl, h⟩)))
  | sample x => exact .inr (.inr (.inr (.inr (.inl ⟨x, rfl, h⟩))))
  | consume k => exact .inr (.inr (.inr (.inr (.inr ⟨k, rfl, h⟩))))
  | evtByte d => exact .inl (ofRow (.byte d) rfl)
  | evtSyncLost => exact .inl (ofRow .syncLost rfl)
  | evtTxEnded => exact .inl (ofRow .txEnded rfl)
  | evtOverrun s => exact .inl (ofRow (.overrun s) rfl)
  | evtFrameReady s => exact .inl (ofRow (.frameReady s) rfl)

theorem sameConsumerSide_refl (st : State) : sameConsumerSide st st :=
  ⟨rfl, rfl, rfl, rfl, rfl, rfl, rfl⟩

/-! ## BEGIN_CAPTURE -/

/-- BEGIN_CAPTURE writes the slot flags and `wr_idx` and no other element (R101, R60). -/
theorem execBeginCapture_frame {s : Slot} {st t : State} (h : execBeginCapture s st = .next t) :
    t = { st with slots := t.slots, wrIdx := t.wrIdx } := by
  rcases execBeginCapture_cases h with ⟨-, -, rfl⟩ | ⟨-, rfl⟩ <;> rfl

/-- BEGIN_CAPTURE writes its own flag and `wr_idx` together or not at all (R101). -/
theorem execBeginCapture_slot_wrIdx {s : Slot} {st t : State} (h : execBeginCapture s st = .next t) :
    t.slot s.other = st.slot s.other ∧
      ((t.slot s = st.slot s ∧ t.wrIdx = st.wrIdx) ∨
        (st.slot s = .empty ∧ t.slot s = .filling ∧ t.wrIdx = 0#10)) := by
  rcases execBeginCapture_cases h with ⟨hempty, -, rfl⟩ | ⟨-, rfl⟩
  · exact ⟨st.slot_setSlot_other s .filling, .inr ⟨hempty, st.slot_setSlot_same s .filling, rfl⟩⟩
  · exact ⟨rfl, .inl ⟨rfl, rfl⟩⟩

/-! ## SAMPLE -/

/-- SAMPLE stores at `wr_idx` of the FILLING slot, or nothing when there is none (R55, R102). -/
theorem execSample_buf {x : Sample} {st t : State} (h : execSample x st = .next t) :
    t.buf = st.buf ∨
      ∃ f, st.fillSlot = some f ∧ t.buf = memWrite st.buf (bufAddr f st.wrIdx) x := by
  rcases execSample_cases h with ⟨-, rfl⟩ | ⟨f, hf, -, -, rfl⟩ | ⟨f, hf, -, -, -, rfl⟩ |
    ⟨f, hf, -, -, -, rfl⟩
  · exact .inl rfl
  all_goals exact .inr ⟨f, hf, rfl⟩

theorem execSample_memRead {x : Sample} {st t : State} (h : execSample x st = .next t) {a : BufAddr}
    (ha : ∀ f, st.fillSlot = some f → a ≠ bufAddr f st.wrIdx) : memRead t.buf a = memRead st.buf a := by
  rcases execSample_buf h with hbuf | ⟨f, hf, hbuf⟩ <;> rw [hbuf]
  exact memRead_memWrite_other st.buf x (ha f hf)

theorem execSample_input {x : Sample} {st t : State} (h : execSample x st = .next t) :
    t.input = st.input := by
  rcases execSample_cases h with ⟨-, rfl⟩ | ⟨f, -, -, -, rfl⟩ | ⟨f, -, -, -, -, rfl⟩ |
    ⟨f, -, -, -, -, rfl⟩ <;> rfl

/-- Off a frame's end SAMPLE writes a word and `wr_idx` and no other element (R102). -/
theorem execSample_within_frame {x : Sample} {st t : State} (h : execSample x st = .next t)
    (hidx : st.wrIdx ≠ 1023#10) : t = { st with buf := t.buf, wrIdx := t.wrIdx } := by
  rcases execSample_cases h with ⟨-, rfl⟩ | ⟨f, -, -, -, rfl⟩ | ⟨f, -, -, hlast, -, -⟩ |
    ⟨f, -, -, hlast, -, -⟩
  · rfl
  · rfl
  · exact absurd hlast hidx
  · exact absurd hlast hidx

/-- Settles O15, clause by clause from what SAMPLE can do. -/
theorem sampleFrame : Obligations.SampleFrame := by
  intro x st t h
  rw [exec_sample] at h
  refine ⟨fun a ha => execSample_memRead h ha, execSample_sameConsumerSide h, execSample_input h,
    fun hidx => ?_⟩
  rw [execSample_within_frame h hidx]
  exact ⟨rfl, rfl, rfl⟩

/-! ## CONSUME -/

/-- What CONSUME changes, it changes by the pipeline and then in the flag of its slot; the scheduler's
elements are otherwise left as they were (R58, R60, R104). -/
theorem execConsume_frame {k : Slot} {st t : State} (h : execConsume k st = .next t) :
    sameProducerSide t st ∧ t.slot k.other = st.slot k.other ∧ t.input = st.input := by
  rcases execConsume_cases h with ⟨-, rfl⟩ | ⟨-, frame, -, rfl⟩
  · exact ⟨⟨rfl, rfl, rfl⟩, rfl, rfl⟩
  · have hsame := stepFrame_frame st frame
    have hother := ((st.stepFrame frame).slot_setSlot_other k .empty).trans (hsame.slot k.other)
    obtain ⟨-, hbuf, hwrIdx, hsticky, hinput⟩ := hsame
    exact ⟨⟨hwrIdx, hsticky, hbuf⟩, hother, hinput⟩

theorem execConsume_buf {k : Slot} {st t : State} (h : execConsume k st = .next t) :
    t.buf = st.buf := by
  obtain ⟨⟨-, -, hbuf⟩, -, -⟩ := execConsume_frame h
  exact hbuf

/-- What CONSUME emits goes behind what was emitted before (R16, R104). -/
theorem execConsume_events {k : Slot} {st t : State} (h : execConsume k st = .next t) :
    ∃ es, t.events = st.events ++ es := by
  rcases execConsume_cases h with ⟨-, rfl⟩ | ⟨-, frame, -, rfl⟩
  · exact ⟨[], (List.append_nil _).symm⟩
  · obtain ⟨as, bs, hevents, -, -⟩ := vote_events st (st.rawBit frame)
    exact ⟨as ++ bs, hevents⟩

/-- Settles O16: the pipeline leaves the scheduler alone, and its events are appended. -/
theorem consumeFrame : Obligations.ConsumeFrame := by
  intro k st t h
  rw [exec_consume] at h
  obtain ⟨hproducer, hother, hinput⟩ := execConsume_frame h
  exact ⟨fun a => by rw [execConsume_buf h], hproducer, hother, hinput, execConsume_events h⟩

/-! ## Every operation -/

theorem exec_input {i : Instr} {st t : State} (h : exec i st = .next t) : t.input = st.input := by
  rcases exec_cases h with ⟨e, -, rfl⟩ | ⟨-, rfl⟩ | ⟨-, rfl⟩ | ⟨s, -, h⟩ | ⟨x, -, h⟩ | ⟨k, -, h⟩
  · rfl
  · rfl
  · rfl
  · rw [execBeginCapture_frame h]
  · exact execSample_input h
  · obtain ⟨-, -, hinput⟩ := execConsume_frame h
    exact hinput

/-- SAMPLE alone stores (R55). -/
theorem exec_buf {i : Instr} {st t : State} (hsample : ∀ x, i ≠ .sample x) (h : exec i st = .next t) :
    t.buf = st.buf := by
  rcases exec_cases h with ⟨e, -, rfl⟩ | ⟨-, rfl⟩ | ⟨-, rfl⟩ | ⟨s, -, h⟩ | ⟨x, rfl, -⟩ | ⟨k, -, h⟩
  · rfl
  · rfl
  · rfl
  · rw [execBeginCapture_frame h]
  · exact absurd rfl (hsample x)
  · exact execConsume_buf h

/-- No operation writes a word but the one at `wr_idx` of the FILLING slot (R55, R56). -/
theorem exec_memRead {i : Instr} {st t : State} (h : exec i st = .next t) {a : BufAddr}
    (ha : ∀ f, st.fillSlot = some f → a ≠ bufAddr f st.wrIdx) : memRead t.buf a = memRead st.buf a := by
  by_cases hsample : ∃ x, i = .sample x
  · obtain ⟨x, rfl⟩ := hsample
    exact execSample_memRead (exec_sample x st ▸ h) ha
  · rw [exec_buf (fun x hx => hsample ⟨x, hx⟩) h]

/-- Of all operations CONSUME and RESET alone write the debouncer and the decoder (R60). -/
theorem exec_sameConsumerSide {i : Instr} {st t : State} (hreset : i ≠ .reset)
    (hconsume : ∀ k, i ≠ .consume k) (h : exec i st = .next t) : sameConsumerSide t st := by
  rcases exec_cases h with ⟨e, -, rfl⟩ | ⟨-, rfl⟩ | ⟨rfl, -⟩ | ⟨s, -, h⟩ | ⟨x, -, h⟩ | ⟨k, rfl, -⟩
  · exact sameConsumerSide_refl st
  · exact sameConsumerSide_refl t
  · exact absurd rfl hreset
  · rw [execBeginCapture_frame h]
    exact sameConsumerSide_refl st
  · exact execSample_sameConsumerSide h
  · exact absurd rfl (hconsume k)

/-- Of all operations SAMPLE and RESET alone write `ovr_sticky` (R60, R105). -/
theorem exec_ovrSticky {i : Instr} {st t : State} (hreset : i ≠ .reset)
    (hsample : ∀ x, i ≠ .sample x) (h : exec i st = .next t) : t.ovrSticky = st.ovrSticky := by
  rcases exec_cases h with ⟨e, -, rfl⟩ | ⟨-, rfl⟩ | ⟨rfl, -⟩ | ⟨s, -, h⟩ | ⟨x, rfl, -⟩ | ⟨k, -, h⟩
  · rfl
  · rfl
  · exact absurd rfl hreset
  · rw [execBeginCapture_frame h]
  · exact absurd rfl (hsample x)
  · obtain ⟨⟨-, hsticky, -⟩, -, -⟩ := execConsume_frame h
    exact hsticky

/-! ## The operations that store nothing and read no frame -/

section NonStoring

variable {i : Instr} {st t : State} (hsample : ∀ x, i ≠ .sample x) (hconsume : ∀ k, i ≠ .consume k)
  (h : exec i st = .next t)

include hsample hconsume h

/-- NOP and the event rows leave the slot flags and `wr_idx` alone. -/
theorem exec_slots_wrIdx_of_nonStoring (hbegin : ∀ s, i ≠ .beginCapture s) (hreset : i ≠ .reset) :
    t.slots = st.slots ∧ t.wrIdx = st.wrIdx := by
  rcases exec_cases h with ⟨e, -, rfl⟩ | ⟨-, rfl⟩ | ⟨rfl, -⟩ | ⟨s, rfl, -⟩ | ⟨x, rfl, -⟩ | ⟨k, rfl, -⟩
  · exact ⟨rfl, rfl⟩
  · exact ⟨rfl, rfl⟩
  · exact absurd rfl hreset
  · exact absurd rfl (hbegin s)
  · exact absurd rfl (hsample x)
  · exact absurd rfl (hconsume k)

/-- NOP, RESET and BEGIN_CAPTURE emit nothing (R100, R101, R220). -/
theorem exec_events_of_nonStoring_stimulus (hstimulus : i.isStimulus = true) :
    t.events = st.events := by
  rcases exec_cases h with ⟨e, rfl, -⟩ | ⟨-, rfl⟩ | ⟨-, rfl⟩ | ⟨s, -, h⟩ | ⟨x, rfl, -⟩ | ⟨k, rfl, -⟩
  · rw [e.row_isStimulus] at hstimulus
    cases hstimulus
  · rfl
  · rfl
  · rw [execBeginCapture_frame h]
  · exact absurd rfl (hsample x)
  · exact absurd rfl (hconsume k)

end NonStoring

theorem exec_row_events {i : Instr} {st t : State} (h : exec i st = .next t) (e : Event)
    (hi : i = e.row) : t.events = st.events ++ [e] := by
  subst hi
  rw [exec_row h, State.emit_events]

/-- Settles O17: the clauses are what the operations leave alone, then BEGIN_CAPTURE's two writes, then
the event of each event row. -/
theorem nonStoringFrame : Obligations.NonStoringFrame := by
  intro i st t hsample hconsume h
  refine ⟨fun a => by rw [exec_buf hsample h],
    fun hreset => ⟨exec_sameConsumerSide hreset hconsume h, exec_ovrSticky hreset hsample h⟩,
    exec_slots_wrIdx_of_nonStoring hsample hconsume h, fun s hi => ?_, exec_input h,
    exec_events_of_nonStoring_stimulus hsample hconsume h,
    fun d => exec_row_events h (.byte d), exec_row_events h .syncLost, exec_row_events h .txEnded,
    fun s => exec_row_events h (.overrun s), fun s => exec_row_events h (.frameReady s)⟩
  subst hi
  exact execBeginCapture_slot_wrIdx (exec_beginCapture s st ▸ h)

/-! ## A FULL slot -/

/-- The word that an operation may write is not one of a FULL slot (R56, R58). -/
theorem bufAddr_ne_of_full {st : State} {k f : Slot} (hfull : st.slot k = .full)
    (hfill : st.fillSlot = some f) (i j : BitVec 10) : bufAddr k i ≠ bufAddr f j := by
  obtain ⟨hf, -⟩ := State.fillSlot_eq_some.mp hfill
  refine bufAddr_ne_of_slot ?_ i j
  rintro rfl
  cases hfull.symm.trans hf

/-- Settles O18. That the slot is FULL before the operation is enough: the one word that may change is
in the FILLING slot. -/
theorem fullSlotIsImmutable : Obligations.FullSlotIsImmutable := by
  intro i st t k h hfull _ j
  exact exec_memRead h fun f hfill => bufAddr_ne_of_full hfull hfill j st.wrIdx

end Machine
end Sys2Proof
end

section
/-! SUPPORT. The proofs of the statements of spec/30_encoding.md: the decoder row by row and that it is the
inverse of the encoder (R71 to R76), the status view (R77 to R79), which operation emits what (R76), and
the order of a poll's two words (R82). -/

namespace Sys2Proof

open Machine

/-! ## Words put together from three fields -/

/-- The middle one of three fields put together. -/
theorem extract_append_middle {k m n : Nat} (a : BitVec k) (b : BitVec m) (c : BitVec n) :
    (a ++ (b ++ c)).extractLsb' n m = b := by
  rw [BitVec.extractLsb'_append_eq_of_add_le (by omega), extract_append_high]

/-- The lowest one of three fields put together. -/
theorem extract_append_lowest {k m n : Nat} (a : BitVec k) (b : BitVec m) (c : BitVec n) :
    (a ++ (b ++ c)).extractLsb' 0 n = c := by
  rw [BitVec.extractLsb'_append_eq_of_add_le (by omega), extract_append_low]

/-- Every word is three fields put together. -/
theorem exists_append_append (k m n : Nat) (w : BitVec (k + (m + n))) :
    ∃ (a : BitVec k) (b : BitVec m) (c : BitVec n), w = a ++ (b ++ c) :=
  ⟨_, _, _, by rw [append_extract m n (w.extractLsb' 0 (m + n)), append_extract k (m + n) w]⟩

theorem toNat_append_add {m n : Nat} (a : BitVec m) (b : BitVec n) :
    (a ++ b).toNat = a.toNat * 2 ^ n + b.toNat := by
  rw [BitVec.toNat_append, Nat.shiftLeft_eq, Nat.mul_comm, Nat.two_pow_add_eq_or_of_lt b.isLt]

/-! ## Format S, row by row (R72, R74) -/

theorem opcode_cases (op : BitVec 4) :
    op = 0x0#4 ∨ op = 0x1#4 ∨ op = 0x2#4 ∨ op = 0x3#4 ∨ op = 0x4#4 ∨ 0x4#4 < op := by bv_omega

theorem decodeStimulus_nop (arg : BitVec 16) :
    decodeStimulus (0x0#4 ++ arg) = if arg = 0#16 then .ok .nop else .error .argNotZero := by
  simp only [decodeStimulus, extract_append_high, extract_append_low]
  rfl

theorem decodeStimulus_reset (arg : BitVec 16) :
    decodeStimulus (0x1#4 ++ arg) = if arg = 0#16 then .ok .reset else .error .argNotZero := by
  simp only [decodeStimulus, extract_append_high, extract_append_low]
  rfl

theorem decodeStimulus_beginCapture (zeros : BitVec 15) (b : BitVec 1) :
    decodeStimulus (0x2#4 ++ (zeros ++ b)) =
      if zeros = 0#15 then .ok (.beginCapture (slotOfBit b)) else .error .slotArgNotZero := by
  simp only [decodeStimulus, extract_append_high, extract_append_middle, extract_append_lowest]
  rfl

theorem decodeStimulus_sample (x : Sample) : decodeStimulus (0x3#4 ++ x) = .ok (.sample x) := by
  simp only [decodeStimulus, extract_append_high, extract_append_low]
  rfl

theorem decodeStimulus_consume (zeros : BitVec 15) (b : BitVec 1) :
    decodeStimulus (0x4#4 ++ (zeros ++ b)) =
      if zeros = 0#15 then .ok (.consume (slotOfBit b)) else .error .slotArgNotZero := by
  simp only [decodeStimulus, extract_append_high, extract_append_middle, extract_append_lowest]
  rfl

theorem decodeStimulus_reserved {op : BitVec 4} (h : 0x4#4 < op) (arg : BitVec 16) :
    decodeStimulus (op ++ arg) = .error .reservedOp := by
  simp only [decodeStimulus, extract_append_high]
  rw [if_neg (by bv_omega), if_neg (by bv_omega), if_neg (by bv_omega), if_neg (by bv_omega),
    if_neg (by bv_omega)]

/-! ## Format E, row by row (R76) -/

theorem kind_cases (kind : BitVec 4) :
    kind = 0x1#4 ∨ kind = 0x2#4 ∨ kind = 0x3#4 ∨ kind = 0x4#4 ∨ kind = 0x5#4 ∨
      kind = 0x0#4 ∨ 0x5#4 < kind := by bv_omega

theorem decodeEvent_byte (d : Byte) : decodeEvent (0x1#4 ++ d) = .ok (.evtByte d) := by
  simp only [decodeEvent, extract_append_high, extract_append_low]
  rfl

theorem decodeEvent_syncLost (data : BitVec 8) :
    decodeEvent (0x2#4 ++ data) = if data = 0#8 then .ok .evtSyncLost else .error .dataNotZero := by
  simp only [decodeEvent, extract_append_high, extract_append_low]
  rfl

theorem decodeEvent_txEnded (data : BitVec 8) :
    decodeEvent (0x3#4 ++ data) = if data = 0#8 then .ok .evtTxEnded else .error .dataNotZero := by
  simp only [decodeEvent, extract_append_high, extract_append_low]
  rfl

theorem decodeEvent_overrun (zeros : BitVec 7) (b : BitVec 1) :
    decodeEvent (0x4#4 ++ (zeros ++ b)) =
      if zeros = 0#7 then .ok (.evtOverrun (slotOfBit b)) else .error .slotDataNotZero := by
  simp only [decodeEvent, extract_append_high, extract_append_middle, extract_append_lowest]
  rfl

theorem decodeEvent_frameReady (zeros : BitVec 7) (b : BitVec 1) :
    decodeEvent (0x5#4 ++ (zeros ++ b)) =
      if zeros = 0#7 then .ok (.evtFrameReady (slotOfBit b)) else .error .slotDataNotZero := by
  simp only [decodeEvent, extract_append_high, extract_append_middle, extract_append_lowest]
  rfl

theorem decodeEvent_reserved {kind : BitVec 4} (h : kind = 0x0#4 ∨ 0x5#4 < kind) (data : BitVec 8) :
    decodeEvent (kind ++ data) = .error .reservedKind := by
  simp only [decodeEvent, extract_append_high]
  rw [if_neg (by bv_omega), if_neg (by bv_omega), if_neg (by bv_omega), if_neg (by bv_omega),
    if_neg (by bv_omega)]

/-! ## The decoder is the inverse of the encoder -/

/-- Settles O51: the row of an instruction's word, its reserved bits zero, is that instruction's. -/
theorem decodeOfEncode : Obligations.DecodeOfEncode := by
  intro i
  cases i with
  | nop => exact decodeStimulus_nop 0#16
  | reset => exact decodeStimulus_reset 0#16
  | beginCapture s => exact (decodeStimulus_beginCapture 0#15 s.bit).trans (by simp)
  | sample x => exact decodeStimulus_sample x
  | consume s => exact (decodeStimulus_consume 0#15 s.bit).trans (by simp)
  | evtByte d => exact decodeEvent_byte d
  | evtSyncLost => exact decodeEvent_syncLost 0#8
  | evtTxEnded => exact decodeEvent_txEnded 0#8
  | evtOverrun s => exact (decodeEvent_overrun 0#7 s.bit).trans (by simp)
  | evtFrameReady s => exact (decodeEvent_frameReady 0#7 s.bit).trans (by simp)

section Check

variable {c : Prop} [Decidable c] {a : Instr} {e : DecodeError}

/-- A row with a check on its reserved bits decodes when the check holds. -/
theorem ite_ok_error_eq_ok {i : Instr} :
    (if c then Except.ok a else Except.error e) = Except.ok i ↔ c ∧ a = i := by
  by_cases hc : c <;> simp [hc]

theorem exists_ite_ok_error_eq_error :
    (∃ e', (if c then Except.ok a else Except.error e) = Except.error e') ↔ ¬c := by
  by_cases hc : c <;> simp [hc]

end Check

/-- A stimulus word that decodes carries no bit beside the fields of its row. -/
theorem encode_of_decodeStimulus {w : StimulusWord} {i : Instr} (h : decodeStimulus w = .ok i) :
    encode i = .stimulus w := by
  obtain ⟨op, zeros, b, rfl⟩ := exists_append_append 4 15 1 w
  rcases opcode_cases op with rfl | rfl | rfl | rfl | rfl | hop
  · obtain ⟨harg, rfl⟩ := ite_ok_error_eq_ok.mp ((decodeStimulus_nop _).symm.trans h)
    rw [harg]
    rfl
  · obtain ⟨harg, rfl⟩ := ite_ok_error_eq_ok.mp ((decodeStimulus_reset _).symm.trans h)
    rw [harg]
    rfl
  · obtain ⟨rfl, rfl⟩ := ite_ok_error_eq_ok.mp ((decodeStimulus_beginCapture _ _).symm.trans h)
    rw [encode, bit_slotOfBit, stimulusWord]
  · obtain rfl := Except.ok.inj ((decodeStimulus_sample _).symm.trans h)
    rfl
  · obtain ⟨rfl, rfl⟩ := ite_ok_error_eq_ok.mp ((decodeStimulus_consume _ _).symm.trans h)
    rw [encode, bit_slotOfBit, stimulusWord]
  · cases (decodeStimulus_reserved hop _).symm.trans h

/-- An event word that decodes carries no bit beside the fields of its row. -/
theorem encode_of_decodeEvent {w : EventWord} {i : Instr} (h : decodeEvent w = .ok i) :
    encode i = .event w := by
  obtain ⟨kind, zeros, b, rfl⟩ := exists_append_append 4 7 1 w
  rcases kind_cases kind with rfl | rfl | rfl | rfl | rfl | hkind
  · obtain rfl := Except.ok.inj ((decodeEvent_byte _).symm.trans h)
    rfl
  · obtain ⟨hdata, rfl⟩ := ite_ok_error_eq_ok.mp ((decodeEvent_syncLost _).symm.trans h)
    rw [hdata]
    rfl
  · obtain ⟨hdata, rfl⟩ := ite_ok_error_eq_ok.mp ((decodeEvent_txEnded _).symm.trans h)
    rw [hdata]
    rfl
  · obtain ⟨rfl, rfl⟩ := ite_ok_error_eq_ok.mp ((decodeEvent_overrun _ _).symm.trans h)
    rw [encode, Event.word, Event.data, bit_slotOfBit, Event.kind]
  · obtain ⟨rfl, rfl⟩ := ite_ok_error_eq_ok.mp ((decodeEvent_frameReady _ _).symm.trans h)
    rw [encode, Event.word, Event.data, bit_slotOfBit, Event.kind]
  · cases (decodeEvent_reserved hkind _).symm.trans h

/-- Settles O52, format by format. -/
theorem encodeOfDecode : Obligations.EncodeOfDecode := by
  intro w i h
  cases w with
  | stimulus w => exact encode_of_decodeStimulus h
  | event w => exact encode_of_decodeEvent h

theorem decode_eq_ok_iff {w : PortWord} {i : Instr} : decode w = .ok i ↔ encode i = w :=
  ⟨encodeOfDecode w i, fun h => h ▸ decodeOfEncode i⟩

theorem encode_injective {i j : Instr} (h : encode i = encode j) : i = j :=
  Except.ok.inj ((decodeOfEncode i).symm.trans (h ▸ decodeOfEncode j))

/-! ## The event words (R75, R76) -/

theorem encode_row (e : Event) : encode e.row = .event e.word := by cases e <;> rfl

theorem Event.row_injective {a b : Event} (h : a.row = b.row) : a = b := by
  cases a <;> cases b <;> cases h <;> rfl

/-- An event is read back from its word by the decoder. -/
theorem Event.word_injective {a b : Event} (h : a.word = b.word) : a = b := by
  have hencode : encode a.row = encode b.row := by rw [encode_row, encode_row, h]
  exact Event.row_injective (encode_injective hencode)

/-- Settles O55: the words by evaluation, and that no two events share one. -/
theorem eventWordsOfTable : Obligations.EventWordsOfTable :=
  ⟨fun _ => rfl, rfl, rfl, rfl, rfl, rfl, rfl, fun _ _ => Event.word_injective⟩

/-! ## The stimulus words as numbers (R72, R74) -/

theorem encode_beginCapture (s : Slot) :
    encode (.beginCapture s) = .stimulus (0x20000#20 ||| s.bit.zeroExtend 20) := by
  cases s <;> rfl

theorem encode_sample (x : Sample) : encode (.sample x) = .stimulus (0x30000#20 ||| x.zeroExtend 20) := by
  rw [encode, stimulusWord, BitVec.append_def]
  rfl

theorem encode_consume (s : Slot) :
    encode (.consume s) = .stimulus (0x40000#20 ||| s.bit.zeroExtend 20) := by
  cases s <;> rfl

/-- Settles O53: a word decodes to the instruction it encodes, and each row's pattern is the encoding of
its operation. -/
theorem stimulusWordsOfTable : Obligations.StimulusWordsOfTable := by
  intro w i
  rw [decode_eq_ok_iff]
  constructor
  · intro h
    cases i with
    | nop => exact .inl ⟨rfl, (PortWord.stimulus.inj h).symm⟩
    | reset => exact .inr (.inl ⟨rfl, (PortWord.stimulus.inj h).symm⟩)
    | beginCapture s =>
      rw [encode_beginCapture] at h
      exact .inr (.inr (.inl ⟨s, rfl, (PortWord.stimulus.inj h).symm⟩))
    | sample x =>
      rw [encode_sample] at h
      exact .inr (.inr (.inr (.inl ⟨x, rfl, (PortWord.stimulus.inj h).symm⟩)))
    | consume s =>
      rw [encode_consume] at h
      exact .inr (.inr (.inr (.inr ⟨s, rfl, (PortWord.stimulus.inj h).symm⟩)))
    | evtByte d | evtSyncLost | evtTxEnded | evtOverrun s | evtFrameReady s => cases h
  · rintro (⟨rfl, rfl⟩ | ⟨rfl, rfl⟩ | ⟨s, rfl, rfl⟩ | ⟨x, rfl, rfl⟩ | ⟨s, rfl, rfl⟩)
    · rfl
    · rfl
    · exact encode_beginCapture s
    · exact encode_sample x
    · exact encode_consume s

/-- R74's list, with the three fields of the word in place of its number. -/
theorem decodeStimulus_error_iff (op : BitVec 4) (zeros : BitVec 15) (b : BitVec 1) :
    (∃ e, decodeStimulus (op ++ (zeros ++ b)) = .error e) ↔
      5 ≤ op.toNat ∨ (op.toNat ≤ 1 ∧ (zeros ++ b).toNat ≠ 0) ∨
        ((op.toNat = 2 ∨ op.toNat = 4) ∧ zeros.toNat ≠ 0) := by
  rcases opcode_cases op with rfl | rfl | rfl | rfl | rfl | hop
  · rw [decodeStimulus_nop, exists_ite_ok_error_eq_error, BitVec.toNat_eq]
    simp
  · rw [decodeStimulus_reset, exists_ite_ok_error_eq_error, BitVec.toNat_eq]
    simp
  · rw [decodeStimulus_beginCapture, exists_ite_ok_error_eq_error, BitVec.toNat_eq]
    simp
  · simp [decodeStimulus_sample]
  · rw [decodeStimulus_consume, exists_ite_ok_error_eq_error, BitVec.toNat_eq]
    simp
  · exact iff_of_true ⟨_, decodeStimulus_reserved hop _⟩ (.inl hop)

namespace Machine

/-- The instructions all have a meaning; an operation completes or faults. -/
theorem exec_ne_refused (i : Instr) (st : State) (r : Refusal) : exec i st ≠ .refused r := by
  cases i with
  | nop | reset | evtSyncLost | evtTxEnded | evtOverrun s | evtFrameReady s => exact nofun
  | beginCapture s =>
    rw [exec_beginCapture, execBeginCapture]
    split <;> exact nofun
  | sample x =>
    rw [exec_sample, execSample]
    split
    · exact nofun
    · dsimp only
      split
      · split <;> exact nofun
      · exact nofun
  | consume s =>
    rw [exec_consume, execConsume]
    split
    · exact nofun
    · exact nofun
    · split <;> exact nofun
  | evtByte d =>
    rw [exec_evtByte, execEvtByte]
    split <;> exact nofun

/-- A step refuses its first word exactly when the decoder rejects it (log 7). -/
theorem step_refused_iff {s : State} {w : PortWord} {rest : List PortWord}
    (hinput : s.input = w :: rest) {e : DecodeError} :
    step s = .refused (.reservedWord e) ↔ decode w = .error e := by
  have hfetch := State.fetch_of_input_cons hinput
  cases hdecode : decode w with
  | ok i =>
    rw [step_of_fetch_of_decode hfetch hdecode]
    exact iff_of_false (exec_ne_refused i _ _) nofun
  | error e' => simp [step, hfetch, hdecode]

/-- Settles O54: the quotients and remainders of the rule's list are the fields of the word. -/
theorem reservedStimulusWordsRefused : Obligations.ReservedStimulusWordsRefused := by
  intro w s rest hinput
  simp only [step_refused_iff hinput]
  obtain ⟨op, zeros, b, rfl⟩ := exists_append_append 4 15 1 w
  have hword := toNat_append_add op (zeros ++ b)
  have harg := toNat_append_add zeros b
  have hb := b.isLt
  have hz := zeros.isLt
  have hop : (op ++ (zeros ++ b)).toNat / 65536 = op.toNat := by omega
  have hlow : (op ++ (zeros ++ b)).toNat % 65536 = (zeros ++ b).toNat := by omega
  have hzeros : (zeros ++ b).toNat / 2 = zeros.toNat := by omega
  rw [hop, hlow, hzeros]
  exact decodeStimulus_error_iff op zeros b

/-! ## Table rows -/

theorem decodeTableWord_eq_some {nbits w : Nat} {i : Instr} (h : decodeTableWord nbits w = some i) :
    decode (portWordOfTable nbits w) = .ok i := by
  unfold decodeTableWord at h
  split at h
  · cases hdecode : decode (portWordOfTable nbits w) with
    | ok j => simpa [hdecode, Except.toOption] using h
    | error e => simp [hdecode, Except.toOption] at h
  · cases h

/-- Settles O50: the word put in front of the input is fetched, which leaves the state as it was. -/
theorem fetchedTableWordRuns : Obligations.FetchedTableWordRuns := by
  intro s nbits w i h
  exact stepRunsDecodedInstruction (s.withFetchWord nbits w) _ s.input i rfl (decodeTableWord_eq_some h)

/-- Settles O56 by evaluating the decoder on each word. -/
theorem tableWordsDecode : Obligations.TableWordsDecode :=
  ⟨rfl, rfl, rfl, rfl, rfl, rfl, rfl, rfl, rfl, rfl⟩

/-! ## The status view (R77 to R79) -/

theorem carrierSel_eq (st : State) : st.carrierSel = if st.phase = .locked then 1#1 else 0#1 := by
  unfold State.carrierSel
  cases st.phase <;> rfl

@[simp] theorem getElem_bitOf (b : Bool) : (bitOf b)[0] = b := by cases b <;> rfl

/-- `frame_cnt` fits the three bits that ST1 gives it. -/
theorem frameCnt_code (n : Fin 5) : (BitVec.ofNat 3 n.val).toNat = n.val := by
  rw [BitVec.toNat_ofNat]
  omega

/-- Each field of ST0 is reached by dropping the fields below it. -/
theorem st0_fields (st : State) :
    st.st0.extractLsb' 0 2 = st.slots.slot0.code ∧ st.st0.extractLsb' 2 2 = st.slots.slot1.code ∧
    (st.st0.getLsbD 4 = st.ovrSticky) ∧ st.st0.getLsbD 5 = false ∧ st.st0.extractLsb' 6 10 = st.wrIdx := by
  unfold State.st0
  refine ⟨extract_append_low _ _, ?_, ?_, ?_, ?_⟩
  · simp (disch := decide) only [BitVec.extractLsb'_append_eq_of_le]
    exact extract_append_low _ _
  · simp only [BitVec.getLsbD_append]
    simp
  · simp only [BitVec.getLsbD_append]
    simp
  · simp (disch := decide) only [BitVec.extractLsb'_append_eq_of_le]
    exact BitVec.extractLsb'_eq_self

/-- Each field of ST1 is reached by dropping the fields below it. -/
theorem st1_fields (st : State) :
    st.st1.extractLsb' 0 2 = st.phase.code ∧ st.st1.getLsbD 2 = st.transferActive ∧
    st.st1.extractLsb' 3 1 = st.carrierSel ∧ (st.st1.extractLsb' 4 3).toNat = st.frameCnt.val ∧
    st.st1.extractLsb' 7 3 = st.bitsInByte ∧ st.st1.extractLsb' 10 5 = st.win ∧
    st.st1.getLsbD 15 = false := by
  unfold State.st1
  refine ⟨extract_append_low _ _, ?_, ?_, ?_, ?_, ?_, ?_⟩
  · simp only [BitVec.getLsbD_append]
    simp
  · simp (disch := decide) only [BitVec.extractLsb'_append_eq_of_le]
    exact extract_append_low _ _
  · simp (disch := decide) only [BitVec.extractLsb'_append_eq_of_le]
    exact (congrArg BitVec.toNat (extract_append_low _ _)).trans (frameCnt_code _)
  · simp (disch := decide) only [BitVec.extractLsb'_append_eq_of_le]
    exact extract_append_low _ _
  · simp (disch := decide) only [BitVec.extractLsb'_append_eq_of_le]
    exact extract_append_low _ _
  · simp only [BitVec.getLsbD_append]
    simp

/-- The status view shows no element that RESET leaves as it was. -/
theorem resetBlock_status (st : State) :
    st.resetBlock.st0 = 0x0000#16 ∧ st.resetBlock.st1 = 0x0000#16 ∧ st.resetBlock.st2 = 0x00#8 ∧
      st.resetBlock.st3 = 0x00000000#32 := by
  change State.reset.st0 = _ ∧ State.reset.st1 = _ ∧ State.reset.st2 = _ ∧ State.reset.st3 = _
  decide

/-- Settles O57: the codes by evaluation, then the fields of ST0 and ST1; ST2 and ST3 are one element each. -/
theorem statusViewFields : Obligations.StatusViewFields := by
  refine ⟨rfl, rfl, rfl, rfl, rfl, rfl, rfl, carrierSel_eq, fun st => ?_⟩
  obtain ⟨h0, h1, hsticky, hzero, hidx⟩ := st0_fields st
  obtain ⟨hphase, hactive, hcarrier, hcnt, hbits, hwin, hzero'⟩ := st1_fields st
  exact ⟨h0, h1, hsticky, hzero, hidx, hphase, hactive, hcarrier, hcnt, hbits, hwin, hzero', rfl, rfl,
    resetBlock_status st⟩

/-! ## What each operation emits (R76) -/

theorem execEvtByte_of_ne {d : Byte} (hd : d ≠ Config.stopByte) (st : State) :
    execEvtByte d st = .next (st.emit (.byte d)) := if_neg hd

/-- Settles O12; of the five rows EVT.BYTE alone checks its operand. -/
theorem eventRowsOnlyEmit : Obligations.EventRowsOnlyEmit := fun st =>
  ⟨fun _ hd => execEvtByte_of_ne hd st, rfl, rfl, fun _ => rfl, fun _ => rfl⟩

/-- What R76 lets one CONSUME emit. -/
def OneDecoderEvent (es : List Event) : Prop :=
  es = [] ∨ (∃ d, d ≠ Config.stopByte ∧ es = [.byte d]) ∨ es = [.syncLost] ∨ es = [.txEnded]

/-- Step 1 either emits nothing, or loses sync in a preamble (R161). -/
theorem checkPreamble_events_cases (st : State) (sum : Nat) :
    (st.checkPreamble sum).events = st.events ∨
      (InPreamble st ∧ st.checkPreamble sum = st.loseSync) := by
  unfold State.checkPreamble
  cases hphase : st.phase with
  | locked | failed => exact .inl rfl
  | expectOne =>
    by_cases hsum : sum = 5
    · exact .inl (by rw [if_pos hsum])
    · exact .inr ⟨.inl hphase, if_neg hsum⟩
  | expectZero =>
    by_cases hsum : sum = 0
    · exact .inl (by rw [if_pos hsum])
    · exact .inr ⟨.inr hphase, if_neg hsum⟩

/-- The byte that a preamble's eighth window completes is 0xAA or 0xAB, not the stop byte (R161, R169). -/
theorem preamblePrefix_takeLast (n : BitVec 3) (b : Bool) (h : n + 1#3 = 0#3) :
    (preamblePrefix n <<< 1) ||| (bitOf b).zeroExtend 8 ≠ Config.stopByte := by
  revert n b
  decide

/-- In FAILED a byte boundary reports nothing but the stop byte. -/
theorem byteBoundary_events_of_failed {st : State} (hphase : st.phase = .failed)
    (hbyte : st.bitsInByte = 0#3 → st.pendingByte ≠ Config.stopByte) :
    st.byteBoundary.events = st.events := by
  unfold State.byteBoundary
  split
  · next hbits => simp [State.deliverByte, hbyte hbits, hphase]
  · rfl

/-- Steps 4 and 5 of DECODE emit nothing (R164, R165). -/
theorem decodeWindow_events_eq (st : State) (sum : Nat) :
    (st.decodeWindow sum).events =
      ((st.checkPreamble sum).accumulateBit (majorityBit sum)).byteBoundary.events := by
  unfold State.decodeWindow
  dsimp only
  split <;> rfl

/-- DECODE emits at most one event (R168): a window that loses sync is one of the preamble, and the byte it
may complete is not reported, the phase being FAILED and the byte not the stop byte. -/
theorem decodeWindow_emits_oneDecoderEvent {st : State} (hinv : DecoderInv st) (sum : Nat) :
    ∃ es, (st.decodeWindow sum).events = st.events ++ es ∧ OneDecoderEvent es := by
  rw [decodeWindow_events_eq]
  rcases checkPreamble_events_cases st sum with hevents | ⟨hpre, hlose⟩
  · obtain ⟨es, happend, hes⟩ :=
      byteBoundary_events ((st.checkPreamble sum).accumulateBit (majorityBit sum))
    refine ⟨es, by rw [happend, State.accumulateBit_events, hevents], ?_⟩
    rcases hes with hes | hes | hes
    · exact .inl hes
    · exact .inr (.inr (.inr hes))
    · exact .inr (.inl hes)
  · rw [hlose]
    have hbyte (hbits : st.bitsInByte + 1#3 = 0#3) :
        (st.pendingByte <<< 1) ||| (bitOf (majorityBit sum)).zeroExtend 8 ≠ Config.stopByte := by
      rw [hinv.preambleBits hpre]
      exact preamblePrefix_takeLast _ _ hbits
    exact ⟨[.syncLost], byteBoundary_events_of_failed rfl hbyte, .inr (.inr (.inl rfl))⟩

theorem vote_emits_oneDecoderEvent {st : State} (hinv : DecoderInv st) (raw : Bool) :
    ∃ es, (st.vote raw).events = st.events ++ es ∧ OneDecoderEvent es := by
  rcases vote_cases st raw with ⟨-, -, h⟩ | ⟨-, -, h⟩ | ⟨-, -, h⟩ | ⟨hactive, -, h⟩ <;> rw [h]
  · exact ⟨[], (List.append_nil _).symm, .inl rfl⟩
  · exact ⟨[], (List.append_nil _).symm, .inl rfl⟩
  · exact ⟨[], (List.append_nil _).symm, .inl rfl⟩
  · exact decodeWindow_emits_oneDecoderEvent (decoderInv_withFrame hinv hactive raw 0) _

theorem execConsume_emits_oneDecoderEvent {k : Slot} {st t : State} (h : execConsume k st = .next t)
    (hinv : DecoderInv st) : ∃ es, t.events = st.events ++ es ∧ OneDecoderEvent es := by
  rcases execConsume_cases h with ⟨-, rfl⟩ | ⟨-, frame, -, rfl⟩
  · exact ⟨[], (List.append_nil _).symm, .inl rfl⟩
  · exact vote_emits_oneDecoderEvent hinv (st.rawBit frame)

/-- SAMPLE emits FRAME_READY when it completes a frame, after OVERRUN when it drops one (R103, R105). -/
theorem execSample_events {x : Sample} {st t : State} (h : execSample x st = .next t) :
    ∃ es, t.events = st.events ++ es ∧
      (es = [] ∨ (∃ f : Slot, es = [.frameReady f]) ∨
        ∃ f : Slot, es = [.overrun f.other, .frameReady f]) := by
  rcases execSample_cases h with ⟨-, rfl⟩ | ⟨f, -, -, -, rfl⟩ | ⟨f, -, -, -, -, rfl⟩ |
    ⟨f, -, -, -, -, rfl⟩
  · exact ⟨[], (List.append_nil _).symm, .inl rfl⟩
  · exact ⟨[], (List.append_nil _).symm, .inl rfl⟩
  · exact ⟨_, rfl, .inr (.inl ⟨f, rfl⟩)⟩
  · exact ⟨_, List.append_assoc _ _ _, .inr (.inr ⟨f, rfl⟩)⟩

/-- Settles O21: SAMPLE, CONSUME, and the operations that emit nothing. -/
theorem eventsPerOperation : Obligations.EventsPerOperation := by
  intro i st t h hstimulus
  by_cases hsample : ∃ x, i = .sample x
  · obtain ⟨x, rfl⟩ := hsample
    obtain ⟨es, hevents, hes⟩ := execSample_events (exec_sample x st ▸ h)
    exact ⟨es, hevents, fun _ hs => absurd rfl (hs x), fun _ => hes, nofun⟩
  by_cases hconsume : ∃ k, i = .consume k
  · obtain ⟨k, rfl⟩ := hconsume
    rw [exec_consume] at h
    obtain ⟨es, hevents⟩ := execConsume_events h
    refine ⟨es, hevents, fun hk _ => absurd rfl (hk k), nofun, fun _ hinv => ?_⟩
    obtain ⟨es', hevents', hes'⟩ := execConsume_emits_oneDecoderEvent h hinv
    rwa [List.append_cancel_left (hevents.symm.trans hevents')]
  have hevents := exec_events_of_nonStoring_stimulus (not_exists.mp hsample) (not_exists.mp hconsume) h
    hstimulus
  exact ⟨[], by rw [hevents, List.append_nil], fun _ _ => rfl, fun _ => .inl rfl, fun _ _ => .inl rfl⟩

/-! ## The two words of a poll (R82) -/

theorem exec_consume_of_ne_full {k : Slot} {st : State} (h : st.slot k ≠ .full) :
    exec (.consume k) st = .next st := by
  rw [exec_consume, execConsume]
  cases hk : st.slot k with
  | empty | filling => rfl
  | full => exact absurd hk h

theorem runOps_singleton (i : Instr) (st : State) : runOps [i] st = exec i st := by
  rw [runOps_cons]
  cases exec i st <;> rfl

/-- A CONSUME of a slot that is not FULL may come before or after any other CONSUME: it does nothing
before it, and still nothing after it, since a CONSUME leaves the other slot as it was. -/
theorem runOps_consume_comm {k : Slot} {st : State} (h : st.slot k ≠ .full) (j : Slot) :
    runOps [.consume k, .consume j] st = runOps [.consume j, .consume k] st := by
  rcases Slot.eq_or_eq_other k j with rfl | rfl
  · rfl
  rw [runOps_cons_next (exec_consume_of_ne_full h), runOps_singleton, runOps_cons]
  cases hother : exec (.consume k.other) st with
  | next t =>
    obtain ⟨-, hslot, -⟩ := execConsume_frame (exec_consume k.other st ▸ hother)
    rw [Slot.other_other] at hslot
    exact ((runOps_singleton _ t).trans (exec_consume_of_ne_full (hslot ▸ h))).symm
  | fault e => rfl
  | refused r => rfl

/-- Settles O24: beside a FULL slot the other one is FILLING, so a CONSUME of the two does nothing. -/
theorem pollOrderIsIrrelevant : Obligations.PollOrderIsIrrelevant := by
  intro st hlegal
  by_cases hfull : st.slot .slot0 = .full
  · obtain ⟨hbeside, -, -⟩ := (slotsLegal_iff st.slots .slot0).mp hlegal
    have hfilling : st.slot .slot1 = .filling := hbeside hfull
    exact (runOps_consume_comm (by simp [hfilling]) .slot0).symm
  · exact runOps_consume_comm hfull .slot1

end Machine

end Sys2Proof
end

section
/-! SUPPORT. The proofs of the statements of spec/40_scheduler.md: what each operation of the scheduler does
(R100 to R105), the life cycle of a slot (R106), and what a capture has stored and reported after any
number of samples (R108, R109). -/

namespace Sys2Proof.Machine

/-! ## The frame in a slot -/

/-- The first words of slot `s` are `words`, index 0 first (R53, R108). -/
def StartsWith (m : Memory) (s : Slot) (words : List Sample) : Prop :=
  ∀ i, i < words.length → memRead m (bufAddr s (BitVec.ofNat 10 i)) = words[i]?

theorem startsWith_nil (m : Memory) (s : Slot) : StartsWith m s [] := nofun

/-- A slot that starts with a whole frame is read as that frame (R104). -/
theorem readFrame_of_startsWith {m : Memory} {s : Slot} {frame : List Sample}
    (hlen : frame.length = Config.frameLen) (h : StartsWith m s frame) : readFrame m s = .ok frame := by
  refine readWords_eq_ok.mpr (List.ext_getElem (by simp [hlen]) fun i _ hi => ?_)
  rw [List.length_map] at hi
  simp [h i hi, hi]

/-- The word stored behind the words of a slot is one more of them (R102). -/
theorem startsWith_memWrite_append {m : Memory} {s : Slot} {words : List Sample} {i : BitVec 10}
    (h : StartsWith m s words) (hi : i.toNat = words.length) (x : Sample) :
    StartsWith (memWrite m (bufAddr s i) x) s (words ++ [x]) := by
  intro j hj
  rw [List.length_append, List.length_singleton] at hj
  rcases Nat.lt_succ_iff_lt_or_eq.mp hj with hlt | rfl
  · have hne : BitVec.ofNat 10 j ≠ i := by bv_omega
    rw [memRead_memWrite_other m x fun heq => hne (bufAddr_inj heq).2, h j hlt,
      List.getElem?_append_left hlt]
  · rw [← hi, BitVec.ofNat_toNat, BitVec.setWidth_eq, memRead_memWrite_same, hi,
      List.getElem?_concat_length]

/-- A word stored in one slot is none of the other's (R52). -/
theorem startsWith_memWrite_of_ne {m : Memory} {s f : Slot} {words : List Sample}
    (h : StartsWith m s words) (hne : s ≠ f) (i : BitVec 10) (x : Sample) :
    StartsWith (memWrite m (bufAddr f i) x) s words := by
  intro j hj
  rw [memRead_memWrite_other m x (bufAddr_ne_of_slot hne _ _), h j hj]

/-! ## CONSUME (R104) -/

/-- CARRIER_SEL as R140 writes it. -/
theorem carrierCoeff_eq (p : Phase) :
    carrierCoeff p = if p = .locked then Config.coeffPayload else Config.coeffSync := by
  cases p <;> rfl

theorem exec_consume_of_readFrame {k : Slot} {st : State} {frame : List Sample}
    (hfull : st.slot k = .full) (hread : readFrame st.buf k = .ok frame) :
    exec (.consume k) st = .next ((st.stepFrame frame).setSlot k .empty) := by
  simp only [exec_consume, execConsume, hfull, hread]

/-- The pipeline leaves the flags as they were, so freeing the slot after it frees it among them. -/
theorem stepFrame_setSlot (st : State) (frame : List Sample) (k : Slot) (v : SlotState) :
    (st.stepFrame frame).setSlot k v = { st.vote (st.rawBit frame) with slots := st.slots.set k v } := by
  obtain ⟨hslots, -⟩ := stepFrame_frame st frame
  rw [State.setSlot, hslots, State.stepFrame]

/-- Settles O10: the slot starts with the frame, so CONSUME reads it and runs the pipeline on it. -/
theorem consumeRunsPipelineOnFrame : Obligations.ConsumeRunsPipelineOnFrame := by
  intro k st frame hfull hlen hwords
  have hread : readFrame st.buf k = .ok frame :=
    readFrame_of_startsWith hlen fun i hi => hwords i (hlen ▸ hi)
  refine ⟨_, exec_consume_of_readFrame hfull hread, ?_, State.slot_setSlot_same _ k .empty⟩
  rw [stepFrame_setSlot, State.rawBit, carrierCoeff_eq]

/-- Settles O9. -/
theorem consumeOfUnfinishedSlotDoesNothing : Obligations.ConsumeOfUnfinishedSlotDoesNothing :=
  fun _ _ hnotFull => exec_consume_of_ne_full hnotFull

/-! ## NOP and the idle step (R100) -/

theorem runOps_drop_nop (is js : List Instr) (st : State) :
    runOps (is ++ .nop :: js) st = runOps (is ++ js) st := by
  induction is generalizing st with
  | nil => exact runOps_cons_next (exec_nop st) js
  | cons i is ih =>
    rw [List.cons_append, List.cons_append, runOps_cons, runOps_cons]
    cases exec i st with
    | next t => exact ih t
    | fault e => rfl
    | refused r => rfl

/-- Settles O1, the runs by induction on what comes before the NOP. -/
theorem nopChangesNothing : Obligations.NopChangesNothing :=
  ⟨rfl, exec_nop, runOps_drop_nop⟩

/-- With nothing to fetch a step is a NOP (log 1). -/
theorem step_of_input_nil {s : State} (hinput : s.input = []) : step s = .next s := by
  simp only [step, State.fetch, hinput, execNop]

/-- Settles O49: nothing to fetch, or a word that the decoder rejects. -/
theorem stepWithoutOperation : Obligations.StepWithoutOperation :=
  ⟨fun _ => step_of_input_nil, fun _ _ _ _ hinput hdecode => (step_refused_iff hinput).mpr hdecode⟩

/-! ## BEGIN_CAPTURE (R101) -/

theorem exec_beginCapture_of_free {s : Slot} {st : State} (hempty : st.slot s = .empty)
    (hother : st.slot s.other ≠ .filling) :
    exec (.beginCapture s) st = .next ((st.setSlot s .filling).setWrIdx 0#10) :=
  if_pos ⟨hempty, hother⟩

theorem exec_beginCapture_of_not_free {s : Slot} {st : State}
    (h : ¬(st.slot s = .empty ∧ st.slot s.other ≠ .filling)) : exec (.beginCapture s) st = .next st :=
  if_neg h

/-- R101 (b): whichever slot is FILLING, a BEGIN_CAPTURE is ignored. -/
theorem exec_beginCapture_of_filling {k : Slot} {st : State} (hk : st.slot k = .filling) (s : Slot) :
    exec (.beginCapture s) st = .next st := by
  refine exec_beginCapture_of_not_free fun ⟨hempty, hother⟩ => ?_
  rcases Slot.eq_or_eq_other s k with rfl | rfl
  · cases hempty.symm.trans hk
  · exact hother hk

/-- Settles O3: the guard met, the guard not met, and two ways of not meeting it. -/
theorem beginCaptureGuarded : Obligations.BeginCaptureGuarded := by
  refine ⟨encode_beginCapture, fun s st => exec_beginCapture_of_free,
    fun s st => exec_beginCapture_of_not_free, fun s k st hk => exec_beginCapture_of_filling hk s,
    fun s st hfull => exec_beginCapture_of_not_free fun ⟨hempty, _⟩ => ?_⟩
  cases hempty.symm.trans hfull

/-! ## SAMPLE (R102, R103, R105) -/

/-- Settles O4. -/
theorem sampleWithoutFillingSlotDropped : Obligations.SampleWithoutFillingSlotDropped := by
  intro x st hidle
  rw [exec_sample, execSample, State.fillSlot_eq_none.mpr hidle]

section Sample

variable {st : State} {f : Slot} (x : Sample) (hfill : st.fillSlot = some f)

include hfill

/-- R102 (b). -/
theorem exec_sample_of_within (hidx : st.wrIdx ≠ 1023#10) :
    exec (.sample x) st = .next ((st.storeSample f x).setWrIdx (st.wrIdx + 1#10)) := by
  simp only [exec_sample, execSample, hfill, wrIdx_last, if_neg hidx]

/-- The last word of a frame is stored, and then FRAME_COMPLETE decides (R102). -/
theorem exec_sample_of_completes (hidx : st.wrIdx = 1023#10) {t : State}
    (hdone : ((st.storeSample f x).setWrIdx 0#10).frameComplete f = .ok t) :
    exec (.sample x) st = .next t := by
  simp only [exec_sample, execSample, hfill, wrIdx_last, if_pos hidx, hdone]

theorem exec_sample_of_complete_faults (hidx : st.wrIdx = 1023#10) {e : Fault}
    (hdone : ((st.storeSample f x).setWrIdx 0#10).frameComplete f = .error e) :
    exec (.sample x) st = .fault e := by
  simp only [exec_sample, execSample, hfill, wrIdx_last, if_pos hidx, hdone]

end Sample

/-- Settles O5. -/
theorem sampleStoresAndAdvances : Obligations.SampleStoresAndAdvances := by
  refine ⟨fun i => ⟨?_, ?_⟩, fun x st f hf hfirst hidx => ?_⟩
  · rw [bufAddr_toNat]
    exact Nat.zero_add _
  · rw [bufAddr_toNat]
    rfl
  · exact ⟨_, exec_sample_of_within x (State.fillSlot_eq_some.mpr ⟨hf, hfirst⟩) hidx, rfl,
      memRead_storeSample_same st f x, fun a ha => memRead_storeSample_other st f x ha⟩

/-! ## A frame's end (R103, R105) -/

theorem frameComplete_of_other_empty {st : State} {f : Slot} (ho : st.slot f.other = .empty) :
    st.frameComplete f = .ok (((st.setSlot f .full).setSlot f.other .filling).emit (.frameReady f)) := by
  simp only [State.frameComplete, ho]

theorem frameComplete_of_other_full {st : State} {f : Slot} (ho : st.slot f.other = .full) :
    st.frameComplete f = .ok ((st.setSlot f .full).overrunReclaim f f.other) := by
  simp only [State.frameComplete, ho]

theorem frameComplete_of_other_filling {st : State} {f : Slot} (ho : st.slot f.other = .filling) :
    st.frameComplete f = .error .bothSlotsFilling := by
  simp only [State.frameComplete, ho]

/-- After the hand-off the slot that completed is FULL. -/
theorem get_handOver_same (t : SlotStates) (f : Slot) :
    ((t.set f .full).set f.other .filling).get f = .full := by simp

/-- After the hand-off the other slot is FILLING. -/
theorem get_handOver_other (t : SlotStates) (f : Slot) :
    ((t.set f .full).set f.other .filling).get f.other = .filling := by simp

/-- Settles O6: FRAME_COMPLETE finds the other slot EMPTY. -/
theorem lastSampleHandsOver : Obligations.LastSampleHandsOver := by
  intro x st f hf ho hidx
  have hfill : st.fillSlot = some f := fillSlot_of_filling hf (by simp [ho])
  rw [← hidx]
  exact ⟨_, exec_sample_of_completes x hfill hidx (frameComplete_of_other_empty ho), rfl,
    get_handOver_same st.slots f, get_handOver_other st.slots f, memRead_storeSample_same st f x,
    fun a ha => memRead_storeSample_other st f x ha⟩

/-- Settles O7: FRAME_COMPLETE finds the other slot FULL, and leaves it FILLING. -/
theorem lastSampleOverrun : Obligations.LastSampleOverrun := by
  intro x st f hf ho hidx
  have hfill : st.fillSlot = some f := fillSlot_of_filling hf (by simp [ho])
  have hother := get_handOver_other st.slots f
  rw [← hidx]
  refine ⟨_, exec_sample_of_completes x hfill hidx (frameComplete_of_other_full ho), ?_,
    get_handOver_same st.slots f, hother, memRead_storeSample_same st f x,
    fun a ha => memRead_storeSample_other st f x ha, exec_consume_of_ne_full fun hfull => ?_⟩
  · simp only [State.overrunReclaim, State.emit, List.append_assoc]
    rfl
  · cases hother.symm.trans hfull

/-- Settles O8: FRAME_COMPLETE finds the other slot FILLING. -/
theorem lastSampleBothFillingFaults : Obligations.LastSampleBothFillingFaults := by
  intro x st h0 h1 hidx
  have hfill : st.fillSlot = some .slot0 := State.fillSlot_eq_some.mpr ⟨h0, .inl rfl⟩
  exact exec_sample_of_complete_faults x hfill hidx (frameComplete_of_other_filling (f := .slot0) h1)

/-- A SAMPLE that completes the frame of slot `f` and starts one in the other slot. -/
structure HandsOver (x : Sample) (f : Slot) (st t : State) : Prop where
  last : st.wrIdx = 1023#10
  slots : t.slots = (st.slots.set f .full).set f.other .filling
  buf : t.buf = memWrite st.buf (bufAddr f st.wrIdx) x
  wrIdx : t.wrIdx = 0#10
  events : (st.slot f.other = .empty ∧ t.events = st.events ++ [.frameReady f]) ∨
    (st.slot f.other = .full ∧ t.events = st.events ++ [.overrun f.other, .frameReady f])

/-- SAMPLE drops the sample, or stores it within a frame, or hands a frame over, the overrun being one
way of handing it over. -/
theorem execSample_handsOver_cases {x : Sample} {st t : State} (h : execSample x st = .next t) :
    ((∀ f, st.slot f ≠ .filling) ∧ t = st) ∨
    ∃ f, st.fillSlot = some f ∧ st.slot f = .filling ∧
      ((st.wrIdx ≠ 1023#10 ∧ t = (st.storeSample f x).setWrIdx (st.wrIdx + 1#10)) ∨
        HandsOver x f st t) := by
  rcases execSample_cases h with hidle | ⟨f, hfill, hf, hidx, ht⟩ | ⟨f, hfill, hf, hidx, ho, rfl⟩ |
    ⟨f, hfill, hf, hidx, ho, rfl⟩
  · exact .inl hidle
  · exact .inr ⟨f, hfill, hf, .inl ⟨hidx, ht⟩⟩
  · exact .inr ⟨f, hfill, hf, .inr ⟨hidx, rfl, rfl, rfl, .inl ⟨ho, rfl⟩⟩⟩
  · exact .inr ⟨f, hfill, hf, .inr ⟨hidx, rfl, rfl, rfl, .inr ⟨ho, List.append_assoc _ _ _⟩⟩⟩

namespace HandsOver

variable {x : Sample} {f : Slot} {st t : State} (h : HandsOver x f st t)

include h

theorem slot_same : t.slot f = .full := by
  rw [State.slot, h.slots, get_handOver_same]

theorem slot_other : t.slot f.other = .filling := by
  rw [State.slot, h.slots, get_handOver_other]

/-- The report of the hand-off (R103, R105, R195). -/
theorem exists_events : ∃ es, t.events = st.events ++ es ∧ readySlots es = [f] := by
  rcases h.events with ⟨-, hevents⟩ | ⟨-, hevents⟩ <;> exact ⟨_, hevents, rfl⟩

theorem frameReady_mem : Event.frameReady f ∈ t.events.drop st.events.length := by
  rcases h.events with ⟨-, hevents⟩ | ⟨-, hevents⟩ <;> simp [hevents]

theorem overrun_mem (ho : st.slot f.other = .full) :
    Event.overrun f.other ∈ t.events.drop st.events.length := by
  rcases h.events with ⟨hempty, -⟩ | ⟨-, hevents⟩
  · cases hempty.symm.trans ho
  · simp [hevents]

end HandsOver

/-! ## The life cycle of a slot (R106) -/

theorem execBeginCapture_slot_change {s k : Slot} {st t : State} (h : execBeginCapture s st = .next t)
    (hne : t.slot k ≠ st.slot k) :
    k = s ∧ st.slot k = .empty ∧ t.slot k = .filling ∧ st.slot k.other ≠ .filling := by
  rcases execBeginCapture_cases h with ⟨hempty, hother, rfl⟩ | ⟨-, rfl⟩
  · rcases Slot.eq_or_eq_other s k with rfl | rfl
    · exact ⟨rfl, hempty, st.slot_setSlot_same k .filling, hother⟩
    · exact absurd (st.slot_setSlot_other s .filling) hne
  · exact absurd rfl hne

theorem execConsume_slot_change {s k : Slot} {st t : State} (h : execConsume s st = .next t)
    (hne : t.slot k ≠ st.slot k) : k = s ∧ st.slot k = .full ∧ t.slot k = .empty := by
  obtain ⟨-, hother, -⟩ := execConsume_frame h
  rcases Slot.eq_or_eq_other s k with rfl | rfl
  · rcases execConsume_cases h with ⟨-, rfl⟩ | ⟨hfull, frame, -, rfl⟩
    · exact absurd rfl hne
    · exact ⟨rfl, hfull, State.slot_setSlot_same _ k .empty⟩
  · exact absurd hother hne

theorem execSample_slot_change {x : Sample} {k : Slot} {st t : State} (h : execSample x st = .next t)
    (hne : t.slot k ≠ st.slot k) : ∃ f, st.slot f = .filling ∧ HandsOver x f st t := by
  rcases execSample_handsOver_cases h with ⟨-, rfl⟩ | ⟨f, -, hf, ⟨-, rfl⟩ | hover⟩
  · exact absurd rfl hne
  · exact absurd rfl hne
  · exact ⟨f, hf, hover⟩

/-- Settles O19: the operations that write a flag, and for SAMPLE the two slots of the hand-off. -/
theorem slotTransitionTable : Obligations.SlotTransitionTable := by
  intro i st t k h hne
  rcases exec_cases h with ⟨e, -, rfl⟩ | ⟨-, rfl⟩ | ⟨rfl, rfl⟩ | ⟨s, rfl, hbegin⟩ |
    ⟨x, rfl, hsample⟩ | ⟨s, rfl, hconsume⟩
  · exact absurd rfl hne
  · exact absurd rfl hne
  · exact .inl ⟨rfl, by cases k <;> rfl⟩
  · obtain ⟨rfl, hempty, hfilling, hother⟩ := execBeginCapture_slot_change hbegin hne
    exact .inr (.inl ⟨rfl, hempty, hfilling, hother⟩)
  · obtain ⟨f, hf, hover⟩ := execSample_slot_change hsample hne
    refine .inr (.inr (.inr ⟨⟨x, rfl⟩, hover.last, ?_⟩))
    rcases Slot.eq_or_eq_other f k with rfl | rfl
    · exact .inl ⟨hf, hover.slot_same, hover.frameReady_mem⟩
    · rw [Slot.other_other]
      rcases hover.events with ⟨ho, -⟩ | ⟨ho, -⟩
      · exact .inr (.inl ⟨ho, hover.slot_other, hf, hover.slot_same⟩)
      · exact .inr (.inr ⟨ho, hover.slot_other, hf, hover.slot_same, hover.overrun_mem ho⟩)
  · obtain ⟨rfl, hfull, hempty⟩ := execConsume_slot_change hconsume hne
    exact .inr (.inr (.inl ⟨rfl, hfull, hempty⟩))

end Sys2Proof.Machine
end

section
/-! SUPPORT. The two statements of spec/40_scheduler.md about whole runs, the count of R109 and the newest
frame of R108 and R105 (d): one invariant of a running capture, in terms of the samples delivered so far,
which every stimulus but RESET keeps. -/

namespace Sys2Proof.Machine

/-! ## The sample stream cut into frames -/

/-- The number of frames the samples complete (R109). -/
def framesIn (xs : List Sample) : Nat := xs.length / Config.frameLen

/-- The samples behind the last complete frame. -/
def openFrame (xs : List Sample) : List Sample := xs.drop (framesIn xs * Config.frameLen)

/-- The samples of the last complete frame, when there is one. -/
def newestFrame (xs : List Sample) : List Sample :=
  (xs.drop ((framesIn xs - 1) * Config.frameLen)).take Config.frameLen

theorem length_openFrame (xs : List Sample) : (openFrame xs).length = xs.length % Config.frameLen := by
  rw [openFrame, List.length_drop, framesIn, Nat.mul_comm, Nat.mod_eq_sub]

theorem framesIn_mul_le (xs : List Sample) : framesIn xs * Config.frameLen ≤ xs.length :=
  Nat.div_mul_le_self _ _

/-- The newest frame ends within the samples. -/
theorem newestFrame_end_le {xs : List Sample} (h : 0 < framesIn xs) :
    (framesIn xs - 1) * Config.frameLen + Config.frameLen ≤ xs.length := by
  rw [← Nat.succ_mul, Nat.succ_eq_add_one, Nat.sub_add_cancel h]
  exact framesIn_mul_le xs

theorem length_newestFrame {xs : List Sample} (h : 0 < framesIn xs) :
    (newestFrame xs).length = Config.frameLen := by
  rw [newestFrame, List.length_take, List.length_drop]
  exact Nat.min_eq_left (Nat.le_sub_of_add_le' (newestFrame_end_le h))

section Append

variable {xs : List Sample} (x : Sample)

/-! One more sample within a frame. -/

theorem framesIn_append_of_within (h : (openFrame xs).length + 1 ≠ Config.frameLen) :
    framesIn (xs ++ [x]) = framesIn xs := by
  rw [length_openFrame] at h
  simp only [framesIn, List.length_append, List.length_singleton, Config.frameLen] at h ⊢
  omega

theorem openFrame_append_of_within (h : (openFrame xs).length + 1 ≠ Config.frameLen) :
    openFrame (xs ++ [x]) = openFrame xs ++ [x] := by
  rw [openFrame, framesIn_append_of_within x h, List.drop_append_of_le_length (framesIn_mul_le xs),
    openFrame]

theorem newestFrame_append_of_within (h : (openFrame xs).length + 1 ≠ Config.frameLen)
    (hpos : 0 < framesIn xs) : newestFrame (xs ++ [x]) = newestFrame xs := by
  have hend := newestFrame_end_le hpos
  rw [newestFrame, framesIn_append_of_within x h,
    List.drop_append_of_le_length ((Nat.le_add_right _ _).trans hend),
    List.take_append_of_le_length, newestFrame]
  rw [List.length_drop]
  exact Nat.le_sub_of_add_le' hend

/-! One more sample that completes a frame. -/

theorem framesIn_append_of_last (h : (openFrame xs).length + 1 = Config.frameLen) :
    framesIn (xs ++ [x]) = framesIn xs + 1 := by
  rw [length_openFrame] at h
  simp only [framesIn, List.length_append, List.length_singleton, Config.frameLen] at h ⊢
  omega

theorem openFrame_append_of_last (h : (openFrame xs).length + 1 = Config.frameLen) :
    openFrame (xs ++ [x]) = [] := by
  rw [← List.length_eq_zero_iff, length_openFrame]
  rw [length_openFrame] at h
  simp only [List.length_append, List.length_singleton, Config.frameLen] at h ⊢
  omega

theorem newestFrame_append_of_last (h : (openFrame xs).length + 1 = Config.frameLen) :
    newestFrame (xs ++ [x]) = openFrame xs ++ [x] := by
  rw [newestFrame, framesIn_append_of_last x h, Nat.add_sub_cancel,
    List.drop_append_of_le_length (framesIn_mul_le xs), ← openFrame, List.take_of_length_le]
  rw [List.length_append, List.length_singleton, h]

end Append

/-! ## A running capture -/

/-- The slot that takes the next sample, after the samples `xs` of a capture begun in slot `s0` (R109). -/
def captureSlot (s0 : Slot) (xs : List Sample) : Slot := frameSlot s0 (framesIn xs)

theorem captureSlot_append_of_within {s0 : Slot} {xs : List Sample} (x : Sample)
    (h : (openFrame xs).length + 1 ≠ Config.frameLen) :
    captureSlot s0 (xs ++ [x]) = captureSlot s0 xs := by
  rw [captureSlot, framesIn_append_of_within x h, captureSlot]

theorem captureSlot_append_of_last {s0 : Slot} {xs : List Sample} (x : Sample)
    (h : (openFrame xs).length + 1 = Config.frameLen) :
    captureSlot s0 (xs ++ [x]) = (captureSlot s0 xs).other := by
  rw [captureSlot, framesIn_append_of_last x h, frameSlot_succ, captureSlot]

/-- The slot of the newest complete frame is the one beside the slot that is filling. -/
theorem frameSlot_newest {s0 : Slot} {xs : List Sample} (hpos : 0 < framesIn xs) :
    frameSlot s0 (framesIn xs - 1) = (captureSlot s0 xs).other := by
  obtain ⟨j, hj⟩ := Nat.exists_eq_succ_of_ne_zero hpos.ne'
  rw [captureSlot, hj, Nat.succ_sub_one, Nat.succ_eq_add_one, frameSlot_succ, Slot.other_other]

/-- A capture begun in slot `s0`, with `before` on the event port, that has taken the samples `xs`: one
slot is FILLING with the samples of the open frame, the other, if it is FULL, holds the newest complete
one, and FRAME_READY has named the slot of every complete frame (R108, R109). -/
structure Capturing (before : List Event) (s0 : Slot) (xs : List Sample) (st : State) : Prop where
  filling : st.slot (captureSlot s0 xs) = .filling
  beside : st.slot (captureSlot s0 xs).other ≠ .filling
  wrIdx : st.wrIdx.toNat = (openFrame xs).length
  opened : StartsWith st.buf (captureSlot s0 xs) (openFrame xs)
  newest : st.slot (captureSlot s0 xs).other = .full →
    0 < framesIn xs ∧ StartsWith st.buf (captureSlot s0 xs).other (newestFrame xs)
  ready : ∃ es, st.events = before ++ es ∧
    readySlots es = (List.range (framesIn xs)).map (frameSlot s0)

/-- BEGIN_CAPTURE with both slots EMPTY starts a capture that has taken no sample (R101). -/
theorem capturing_start {s0 : Slot} {st t : State} (hslots : st.slots = ⟨.empty, .empty⟩)
    (h : exec (.beginCapture s0) st = .next t) : Capturing t.events s0 [] t := by
  have hempty (s : Slot) : st.slot s = .empty := by
    rw [State.slot, hslots]
    cases s <;> rfl
  rw [exec_beginCapture_of_free (hempty s0) (by simp [hempty])] at h
  obtain rfl := Host.Outcome.next.inj h
  have hother : (st.setSlot s0 .filling).slot s0.other = .empty := by
    rw [State.slot_setSlot_other, hempty]
  exact
    { filling := st.slot_setSlot_same s0 .filling
      beside := fun hfilling => nomatch hother.symm.trans hfilling
      wrIdx := rfl
      opened := startsWith_nil _ _
      newest := fun hfull => nomatch hother.symm.trans hfull
      ready := ⟨[], (List.append_nil _).symm, rfl⟩ }

namespace Capturing

variable {before : List Event} {s0 : Slot} {xs : List Sample} {st t : State}

theorem fillSlot_eq (h : Capturing before s0 xs st) : st.fillSlot = some (captureSlot s0 xs) :=
  fillSlot_of_filling h.filling h.beside

theorem wrIdx_last_iff (h : Capturing before s0 xs st) :
    st.wrIdx = 1023#10 ↔ (openFrame xs).length + 1 = Config.frameLen := by
  rw [← wrIdx_last, h.wrIdx]

/-- A FULL slot is the one beside the slot that is filling. -/
theorem eq_other_of_full (h : Capturing before s0 xs st) {k : Slot} (hk : st.slot k = .full) :
    k = (captureSlot s0 xs).other := by
  refine (Slot.eq_or_eq_other (captureSlot s0 xs) k).resolve_left ?_
  rintro rfl
  cases h.filling.symm.trans hk

/-- A FULL slot is read as the newest complete frame. -/
theorem readFrame_of_full (h : Capturing before s0 xs st) {k : Slot} (hk : st.slot k = .full) :
    0 < framesIn xs ∧ k = frameSlot s0 (framesIn xs - 1) ∧ readFrame st.buf k = .ok (newestFrame xs) := by
  obtain rfl := h.eq_other_of_full hk
  obtain ⟨hpos, hnewest⟩ := h.newest hk
  exact ⟨hpos, (frameSlot_newest hpos).symm, readFrame_of_startsWith (length_newestFrame hpos) hnewest⟩

/-- The slots that further events name as ready come behind those named so far. -/
theorem ready_append (h : Capturing before s0 xs st) {es : List Event}
    (hevents : t.events = st.events ++ es) :
    ∃ es', t.events = before ++ es' ∧
      readySlots es' = (List.range (framesIn xs)).map (frameSlot s0) ++ readySlots es := by
  obtain ⟨es₀, hbefore, hready⟩ := h.ready
  exact ⟨es₀ ++ es, by rw [hevents, hbefore, List.append_assoc], by rw [readySlots_append, hready]⟩

/-- A CONSUME frees the FULL slot or does nothing; it writes no word and completes no frame. -/
theorem execConsume_keeps (h : Capturing before s0 xs st) {k : Slot} (hexec : execConsume k st = .next t) :
    Capturing before s0 xs t := by
  rcases execConsume_cases hexec with ⟨-, rfl⟩ | ⟨hfull, frame, -, rfl⟩
  · exact h
  obtain rfl := h.eq_other_of_full hfull
  have hsame := stepFrame_frame st frame
  have hself := State.slot_setSlot_same (st.stepFrame frame) (captureSlot s0 xs).other .empty
  have hfilling := State.slot_setSlot_of_other (st.stepFrame frame) (captureSlot s0 xs) .empty
  have hslot := (hsame.slot (captureSlot s0 xs)).trans h.filling
  obtain ⟨-, hbuf, hwrIdx, -, -⟩ := hsame
  obtain ⟨as, bs, hevents, has, hbs⟩ := vote_events st (st.rawBit frame)
  have hnone : readySlots (as ++ bs) = [] := by
    rcases has with rfl | rfl <;> rcases hbs with rfl | rfl | ⟨d, -, rfl⟩ <;> rfl
  obtain ⟨es, hes, hready⟩ := h.ready_append hevents
  exact
    { filling := hfilling.trans hslot
      beside := fun hfill => nomatch hself.symm.trans hfill
      wrIdx := hwrIdx ▸ h.wrIdx
      opened := hbuf ▸ h.opened
      newest := fun hfull => nomatch hself.symm.trans hfull
      ready := ⟨es, hes, by rw [hready, hnone, List.append_nil]⟩ }

/-- Within a frame a SAMPLE makes the open frame one word longer. -/
theorem storeSample_keeps (h : Capturing before s0 xs st) (x : Sample) (hidx : st.wrIdx ≠ 1023#10) :
    Capturing before s0 (xs ++ [x])
      ((st.storeSample (captureSlot s0 xs) x).setWrIdx (st.wrIdx + 1#10)) := by
  have hwithin := mt h.wrIdx_last_iff.mpr hidx
  have hslot := captureSlot_append_of_within (s0 := s0) x hwithin
  constructor
  · rw [hslot]
    exact h.filling
  · rw [hslot]
    exact h.beside
  · rw [openFrame_append_of_within x hwithin, List.length_append, ← h.wrIdx]
    show (st.wrIdx + 1#10).toNat = st.wrIdx.toNat + 1
    bv_omega
  · rw [hslot, openFrame_append_of_within x hwithin]
    exact startsWith_memWrite_append h.opened h.wrIdx x
  · rw [hslot, framesIn_append_of_within x hwithin]
    intro hfull
    obtain ⟨hpos, hnewest⟩ := h.newest hfull
    rw [newestFrame_append_of_within x hwithin hpos]
    exact ⟨hpos, startsWith_memWrite_of_ne hnewest (Slot.other_ne _) _ x⟩
  · rw [framesIn_append_of_within x hwithin]
    exact h.ready

/-- At a frame's end the open frame, with the sample behind it, is the newest complete one, whether or
not an older one is dropped. -/
theorem handsOver_keeps (h : Capturing before s0 xs st) {x : Sample}
    (hover : HandsOver x (captureSlot s0 xs) st t) : Capturing before s0 (xs ++ [x]) t := by
  have hlast := h.wrIdx_last_iff.mp hover.last
  have hslot := captureSlot_append_of_last (s0 := s0) x hlast
  constructor
  · rw [hslot]
    exact hover.slot_other
  · rw [hslot, Slot.other_other, hover.slot_same]
    exact nofun
  · rw [openFrame_append_of_last x hlast, hover.wrIdx]
    rfl
  · rw [openFrame_append_of_last x hlast]
    exact startsWith_nil _ _
  · intro _
    rw [hslot, Slot.other_other, framesIn_append_of_last x hlast, newestFrame_append_of_last x hlast,
      hover.buf]
    exact ⟨Nat.succ_pos _, startsWith_memWrite_append h.opened h.wrIdx x⟩
  · obtain ⟨es, hevents, hready⟩ := hover.exists_events
    obtain ⟨es', hevents', hready'⟩ := h.ready_append hevents
    refine ⟨es', hevents', ?_⟩
    rw [hready', hready, framesIn_append_of_last x hlast, List.range_succ, List.map_append]
    rfl

theorem execSample_keeps (h : Capturing before s0 xs st) {x : Sample} (hexec : execSample x st = .next t) :
    Capturing before s0 (xs ++ [x]) t := by
  rcases execSample_handsOver_cases hexec with ⟨hidle, -⟩ | ⟨f, hfill, -, hcase⟩
  · exact absurd h.filling (hidle _)
  · obtain rfl := Option.some.inj (hfill.symm.trans h.fillSlot_eq)
    rcases hcase with ⟨hidx, rfl⟩ | hover
    · exact h.storeSample_keeps x hidx
    · exact h.handsOver_keeps hover

/-- A running capture goes on over every stimulus but RESET, and takes the samples among them. -/
theorem exec_keeps (h : Capturing before s0 xs st) {i : Instr} (hkeeps : i.keepsCapture = true)
    (hexec : exec i st = .next t) : Capturing before s0 (xs ++ samplesOf [i]) t := by
  cases i with
  | nop =>
    obtain rfl := Host.Outcome.next.inj hexec
    simpa only [samplesOf, List.append_nil] using h
  | beginCapture s =>
    rw [exec_beginCapture_of_filling h.filling s] at hexec
    obtain rfl := Host.Outcome.next.inj hexec
    simpa only [samplesOf, List.append_nil] using h
  | sample x => exact h.execSample_keeps (exec_sample x st ▸ hexec)
  | consume k =>
    simpa only [samplesOf, List.append_nil] using h.execConsume_keeps (exec_consume k st ▸ hexec)
  | reset | evtByte d | evtSyncLost | evtTxEnded | evtOverrun s | evtFrameReady s => cases hkeeps

theorem runOps_keeps {ops : List Instr} (h : Capturing before s0 xs st)
    (hkeeps : ∀ i ∈ ops, i.keepsCapture = true) (hrun : runOps ops st = .next t) :
    Capturing before s0 (xs ++ samplesOf ops) t := by
  induction ops generalizing xs st with
  | nil =>
    obtain rfl := Host.Outcome.next.inj hrun
    rwa [samplesOf, List.append_nil]
  | cons i ops ih =>
    obtain ⟨hi, hops⟩ := List.forall_mem_cons.mp hkeeps
    cases hexec : exec i st with
    | next st' =>
      rw [runOps_cons_next hexec] at hrun
      have hrest := ih (h.exec_keeps hi hexec) hops hrun
      rwa [List.append_assoc, ← samplesOf_append] at hrest
    | fault e => simp [runOps_cons, hexec] at hrun
    | refused r => simp [runOps_cons, hexec] at hrun

end Capturing

/-- From the BEGIN_CAPTURE that starts it, a capture has taken exactly the samples of the run. -/
theorem capturing_of_run {s0 : Slot} {st0 st1 t : State} {ops : List Instr}
    (hslots : st0.slots = ⟨.empty, .empty⟩) (hbegin : exec (.beginCapture s0) st0 = .next st1)
    (hkeeps : ∀ i ∈ ops, i.keepsCapture = true) (hrun : runOps ops st1 = .next t) :
    Capturing st1.events s0 (samplesOf ops) t :=
  (capturing_start hslots hbegin).runOps_keeps hkeeps hrun

/-- Settles O27: `wr_idx` is the length of the open frame, and the rest stands in the invariant. -/
theorem sampleCountLaw : Obligations.SampleCountLaw := by
  intro st0 s0 st1 ops t hslots hbegin hkeeps hrun
  have hcapture := capturing_of_run hslots hbegin hkeeps hrun
  exact ⟨hcapture.wrIdx.trans (length_openFrame _), hcapture.fillSlot_eq, hcapture.ready⟩

/-- Settles O28: a FULL slot holds the newest frame of the samples of the run. -/
theorem fullSlotHoldsNewestFrame : Obligations.FullSlotHoldsNewestFrame := by
  intro st0 s0 st1 ops t k hslots hbegin hkeeps hrun hfull
  obtain ⟨hpos, hk, hread⟩ := (capturing_of_run hslots hbegin hkeeps hrun).readFrame_of_full hfull
  exact ⟨(Nat.div_pos_iff.mp hpos).2, hk, hread⟩

end Sys2Proof.Machine
end

section
/-! SUPPORT. The proofs of the statements of spec/41_tone_detector.md about the detector: the pseudocode in
numbers (R123), the widths (R124), the threshold (R125), the values around it (R127) and silence (R129). -/

namespace Sys2Proof.Machine

/-! ## The operators in numbers (R123, R125) -/

theorem shr_sampleValue (x : Sample) : shr (sampleValue x) 4 = x.toInt / 16 := rfl

theorem scaledProduct_eq_ediv (s coeff : Int) : scaledProduct s coeff = s * coeff / 16384 := rfl

theorem magnitudeOf_eq (power : Int) : magnitudeOf power = 64 * (power / 32768) :=
  mul_comm (power / 32768) 64

theorem toneMag_eq (frame : List Sample) (coeff : Int) :
    toneMag frame coeff = 64 * (powerOf coeff (filterFrame frame coeff) / 32768) := magnitudeOf_eq _

theorem detect_iff (m : Int) : detect m = true ↔ 100 ≤ m := decide_eq_true_iff

/-- Settles O30: the comparison, then R125's own examples by evaluation. -/
theorem detectThreshold : Obligations.DetectThreshold :=
  ⟨detect_iff, by decide, by decide, by decide, by decide, by decide, by decide, by decide⟩

/-! ## Silence (R129) -/

/-- What the overflow guard shifts to 0. -/
theorem shr_sampleValue_eq_zero {x : Sample} (hx : 0 ≤ sampleValue x ∧ sampleValue x ≤ 15) :
    shr (sampleValue x) 4 = 0 := Int.ediv_eq_zero_of_lt hx.1 (by omega)

/-- At rest the recurrence takes the scaled sample and nothing else. -/
theorem filterSample_zero (coeff : Int) (x : Sample) :
    filterSample coeff ⟨0, 0⟩ x = ⟨shr (sampleValue x) 4, 0⟩ := by
  simp [filterSample, Config.preshift]

theorem filterFrame_eq_zero {frame : List Sample} (coeff : Int)
    (hquiet : ∀ x ∈ frame, 0 ≤ sampleValue x ∧ sampleValue x ≤ 15) :
    filterFrame frame coeff = ⟨0, 0⟩ := by
  induction frame using List.reverseRecOn with
  | nil => rfl
  | append_singleton frame x ih =>
    obtain ⟨hframe, hx⟩ := List.forall_mem_append.mp hquiet
    rw [filterFrame_concat, ih hframe, filterSample_zero,
      shr_sampleValue_eq_zero (hx x (List.mem_singleton_self x))]

@[simp] theorem powerOf_zero (coeff : Int) : powerOf coeff ⟨0, 0⟩ = 0 := by simp [powerOf]

/-- Settles O31: the recurrence never leaves rest. -/
theorem silenceIsRejected : Obligations.SilenceIsRejected := by
  intro frame coeff hquiet
  have hrest := filterFrame_eq_zero coeff hquiet
  have hmag : toneMag frame coeff = 0 := by rw [toneMag_eq, hrest, powerOf_zero]; rfl
  refine ⟨fun x hx => shr_sampleValue_eq_zero (hquiet x hx), hrest, ?_, hmag, ?_⟩
  · rw [hrest, powerOf_zero]
  · rw [hmag]; rfl

/-! ## Power and magnitude (R124, R127) -/

theorem legalCoeff_iff (coeff : Int) : legalCoeff coeff = true ↔ |coeff| ≤ 32768 := by
  simp [legalCoeff, abs_le]

section LegalCoeff
variable {coeff : Int} (hlegal : |coeff| ≤ 32768)
include hlegal

theorem abs_mul_coeff_le (s : Int) : |s * coeff| ≤ |s| * 32768 := by
  rw [abs_mul]
  exact mul_le_mul_of_nonneg_left hlegal (abs_nonneg s)

/-- The integers `−2|s|` and `2|s|` bracket the product, and so its floor (R124). -/
theorem abs_scaledProduct_le (s : Int) : |scaledProduct s coeff| ≤ 2 * |s| := by
  obtain ⟨hlow, hhigh⟩ := abs_le.mp (abs_mul_coeff_le hlegal s)
  rw [scaledProduct_eq_ediv, abs_le]
  omega

/-- The mixed term of the power is at most twice the product of the two registers. -/
theorem abs_mixedTerm_le (r : Recurrence) :
    |scaledProduct r.s1 coeff * r.s2| ≤ 2 * |r.s1| * |r.s2| := by
  rw [abs_mul]
  exact mul_le_mul_of_nonneg_right (abs_scaledProduct_le hlegal r.s1) (abs_nonneg r.s2)

theorem powerOf_ge_sq_sub (r : Recurrence) : (|r.s1| - |r.s2|) ^ 2 ≤ powerOf coeff r := by
  have hmixed := (abs_le.mp (abs_mixedTerm_le hlegal r)).2
  calc (|r.s1| - |r.s2|) ^ 2
      = r.s1 * r.s1 + r.s2 * r.s2 - 2 * |r.s1| * |r.s2| := by
        rw [← abs_mul_abs_self r.s1, ← abs_mul_abs_self r.s2]; ring
    _ ≤ powerOf coeff r := sub_le_sub_left hmixed _

theorem powerOf_le_sq_add (r : Recurrence) : powerOf coeff r ≤ (|r.s1| + |r.s2|) ^ 2 := by
  have hmixed := (abs_le.mp (abs_mixedTerm_le hlegal r)).1
  calc powerOf coeff r
      ≤ r.s1 * r.s1 + r.s2 * r.s2 - -(2 * |r.s1| * |r.s2|) := sub_le_sub_left hmixed _
    _ = (|r.s1| + |r.s2|) ^ 2 := by
        rw [← abs_mul_abs_self r.s1, ← abs_mul_abs_self r.s2]; ring

theorem powerOf_nonneg (r : Recurrence) : 0 ≤ powerOf coeff r :=
  (sq_nonneg _).trans (powerOf_ge_sq_sub hlegal r)

end LegalCoeff

/-- One sample after rest is squared by the power: a frame for any small power. -/
theorem toneMag_zeros_concat (n : Nat) (x : Sample) (coeff : Int) :
    toneMag (List.replicate n 0#16 ++ [x]) coeff =
      64 * (shr (sampleValue x) 4 * shr (sampleValue x) 4 / 32768) := by
  have hrest : filterFrame (List.replicate n 0#16) coeff = ⟨0, 0⟩ :=
    filterFrame_eq_zero coeff fun y hy => by rw [List.eq_of_mem_replicate hy]; decide
  rw [toneMag_eq, filterFrame_concat, hrest, filterSample_zero]
  simp [powerOf]

/-- A frame of 1024 samples, all 0 but the last. -/
theorem length_zeros_concat (x : Sample) : (List.replicate 1023 0#16 ++ [x]).length = 1024 := by
  rw [List.length_append, List.length_replicate, List.length_singleton]

/-- Settles O32: the magnitude's equation, and a last sample of 3200 (power 40000) or 4800 (power 90000)
for the two values around the threshold. -/
theorem magnitudeIsMultipleOf64 : Obligations.MagnitudeIsMultipleOf64 := by
  refine ⟨fun frame coeff hcoeff => ?_, ⟨_, length_zeros_concat 3200#16, ?_⟩,
    ⟨_, length_zeros_concat 4800#16, ?_⟩⟩
  · have hpower := powerOf_nonneg ((legalCoeff_iff coeff).mp hcoeff) (filterFrame frame coeff)
    rw [detect_iff, toneMag_eq]
    omega
  · rw [toneMag_zeros_concat]; decide
  · rw [toneMag_zeros_concat]; decide

/-! ## The width of the recurrence (R124)

With `coeff / 2^14 = 2·cos θ` the recurrence is a rotation by `θ`, driven by the scaled sample and the
error of the floor. In the rotating frame each sample adds at most 2049 to the length, so that `s1` grows
by at most `2049 × n` at sample `n`. -/

/-- The unit complex number `e^{iθ}` with `2·cos θ = coeff / 2^14`. -/
noncomputable def carrierTurn (coeff : Int) : ℂ :=
  Complex.exp (Real.arccos (coeff / 32768) * Complex.I)

theorem norm_carrierTurn (coeff : Int) : ‖carrierTurn coeff‖ = 1 :=
  Complex.norm_exp_ofReal_mul_I _

theorem carrierTurn_add_inv {coeff : Int} (hlegal : |coeff| ≤ 32768) :
    carrierTurn coeff + (carrierTurn coeff)⁻¹ = coeff / 16384 := by
  have hreal : |(coeff : ℝ)| ≤ 32768 := mod_cast hlegal
  obtain ⟨hlow, hhigh⟩ := abs_le.mp hreal
  have hcos : Real.cos (Real.arccos (coeff / 32768)) = coeff / 32768 :=
    Real.cos_arccos (by linarith) (by linarith)
  rw [carrierTurn, ← Complex.exp_neg, ← neg_mul, ← Complex.two_cos, ← Complex.ofReal_cos, hcos]
  push_cast
  ring

/-- The registers seen in the rotating frame. -/
noncomputable def rotated (coeff : Int) (r : Recurrence) : ℂ := r.s1 - carrierTurn coeff * r.s2

/-- What drives the rotation: the scaled sample and the error of the floor. -/
noncomputable def drive (coeff : Int) (r : Recurrence) (x : Sample) : ℝ :=
  shr (sampleValue x) 4 + (scaledProduct r.s1 coeff - r.s1 * coeff / 16384)

theorem shr_sampleValue_range (x : Sample) :
    -2048 ≤ shr (sampleValue x) 4 ∧ shr (sampleValue x) 4 ≤ 2047 := by
  have hrange := sampleValue_range x
  simp only [shr]
  omega

/-- The floor takes less than 1 away. -/
theorem scaledProduct_error (s coeff : Int) :
    -1 ≤ (scaledProduct s coeff - s * coeff / 16384 : ℝ) ∧
      (scaledProduct s coeff - s * coeff / 16384 : ℝ) ≤ 0 := by
  have hfloor : 16384 * scaledProduct s coeff ≤ s * coeff ∧
      s * coeff ≤ 16384 * scaledProduct s coeff + 16384 := by
    rw [scaledProduct_eq_ediv]; omega
  have hreal : (16384 * scaledProduct s coeff : ℝ) ≤ s * coeff ∧
      (s * coeff : ℝ) ≤ 16384 * scaledProduct s coeff + 16384 := mod_cast hfloor
  constructor <;> linarith

theorem abs_drive_le (coeff : Int) (r : Recurrence) (x : Sample) : |drive coeff r x| ≤ 2049 := by
  have hscaled : (-2048 : ℝ) ≤ shr (sampleValue x) 4 ∧ (shr (sampleValue x) 4 : ℝ) ≤ 2047 :=
    mod_cast shr_sampleValue_range x
  have herror := scaledProduct_error r.s1 coeff
  rw [drive, abs_le]
  constructor <;> linarith

theorem abs_s1_le_norm_rotated_add (coeff : Int) (r : Recurrence) :
    |(r.s1 : ℝ)| ≤ ‖rotated coeff r‖ + |(r.s2 : ℝ)| := by
  calc |(r.s1 : ℝ)| = ‖rotated coeff r + carrierTurn coeff * r.s2‖ := by
        rw [rotated, sub_add_cancel, Complex.norm_intCast]
    _ ≤ ‖rotated coeff r‖ + ‖carrierTurn coeff * r.s2‖ := norm_add_le _ _
    _ = ‖rotated coeff r‖ + |(r.s2 : ℝ)| := by
        rw [norm_mul, norm_carrierTurn, one_mul, Complex.norm_intCast]

section LegalCoeff
variable {coeff : Int} (hlegal : |coeff| ≤ 32768)
include hlegal

/-- One sample turns the registers back by `θ` and adds the drive. -/
theorem rotated_filterSample (r : Recurrence) (x : Sample) :
    rotated coeff (filterSample coeff r x) =
      drive coeff r x + (carrierTurn coeff)⁻¹ * rotated coeff r := by
  have hsum := carrierTurn_add_inv hlegal
  have hne : carrierTurn coeff ≠ 0 := Complex.exp_ne_zero _
  simp only [rotated, drive, filterSample_s1, filterSample_s2]
  push_cast
  rw [mul_sub, inv_mul_cancel_left₀ hne]
  linear_combination (-(r.s1 : ℂ)) * hsum

theorem norm_rotated_filterSample_le (r : Recurrence) (x : Sample) :
    ‖rotated coeff (filterSample coeff r x)‖ ≤ 2049 + ‖rotated coeff r‖ := by
  calc ‖rotated coeff (filterSample coeff r x)‖
      ≤ ‖(drive coeff r x : ℂ)‖ + ‖(carrierTurn coeff)⁻¹ * rotated coeff r‖ :=
        rotated_filterSample hlegal r x ▸ norm_add_le _ _
    _ = |drive coeff r x| + ‖rotated coeff r‖ := by
        rw [norm_mul, norm_inv, norm_carrierTurn, inv_one, one_mul, Complex.norm_real, Real.norm_eq_abs]
    _ ≤ 2049 + ‖rotated coeff r‖ := add_le_add_left (abs_drive_le coeff r x) _

theorem norm_rotated_filterFrame_le (frame : List Sample) :
    ‖rotated coeff (filterFrame frame coeff)‖ ≤ 2049 * frame.length := by
  induction frame using List.reverseRecOn with
  | nil => simp [rotated]
  | append_singleton frame x ih =>
    have hstep := norm_rotated_filterSample_le hlegal (filterFrame frame coeff) x
    rw [filterFrame_concat, List.length_append, List.length_singleton]
    push_cast
    linarith

/-- `|s1| ≤ 2049 × (1 + 2 + … + n)` after `n` samples (R124). -/
theorem abs_filterFrame_s1_le (frame : List Sample) :
    2 * |(filterFrame frame coeff).s1| ≤ 2049 * (frame.length * (frame.length + 1)) := by
  induction frame using List.reverseRecOn with
  | nil => simp
  | append_singleton frame x ih =>
    have hgrow := abs_s1_le_norm_rotated_add coeff (filterFrame (frame ++ [x]) coeff)
    have hnorm := norm_rotated_filterFrame_le hlegal (frame ++ [x])
    rw [filterFrame_concat, filterSample_s2, ← filterFrame_concat] at hgrow
    have hsum : |((filterFrame (frame ++ [x]) coeff).s1 : ℝ)| ≤
        2049 * (frame ++ [x]).length + |((filterFrame frame coeff).s1 : ℝ)| := by linarith
    have hstep : |(filterFrame (frame ++ [x]) coeff).s1| ≤
        2049 * (frame ++ [x]).length + |(filterFrame frame coeff).s1| := mod_cast hsum
    simp only [List.length_append, List.length_singleton, Nat.cast_add, Nat.cast_one] at hstep ⊢
    linarith

theorem abs_filterFrame_s1_le_of_length {frame : List Sample} (hlen : frame.length ≤ 1024) :
    |(filterFrame frame coeff).s1| ≤ 1075315200 := by
  have hcount : (frame.length * (frame.length + 1) : Int) ≤ 1024 * 1025 :=
    mod_cast Nat.mul_le_mul hlen (Nat.succ_le_succ hlen)
  linarith [abs_filterFrame_s1_le hlegal frame]

/-- `s2` is the `s1` of the sample before. -/
theorem abs_filterFrame_s2_le_of_length {frame : List Sample} (hlen : frame.length ≤ 1024) :
    |(filterFrame frame coeff).s2| ≤ 1075315200 := by
  cases frame using List.reverseRecOn with
  | nil => simp
  | append_singleton frame x =>
    rw [filterFrame_concat, filterSample_s2]
    exact abs_filterFrame_s1_le_of_length hlegal (le_trans (by simp) hlen)

end LegalCoeff

/-- Settles O33: every bound follows from the one on `s1` and `s2`. -/
theorem detectorWidthsSuffice : Obligations.DetectorWidthsSuffice := by
  intro frame coeff hlen hcoeff r
  have hlegal := (legalCoeff_iff coeff).mp hcoeff
  have hs1 : |r.s1| ≤ 1075315200 := abs_filterFrame_s1_le_of_length hlegal hlen
  have hs2 : |r.s2| ≤ 1075315200 := abs_filterFrame_s2_le_of_length hlegal hlen
  have hproduct := abs_mul_coeff_le hlegal r.s1
  have hnonneg := powerOf_nonneg hlegal r
  have hpower : powerOf coeff r ≤ 4625211117404160000 :=
    calc powerOf coeff r ≤ (|r.s1| + |r.s2|) ^ 2 := powerOf_le_sq_add hlegal r
      _ ≤ (1075315200 + 1075315200) ^ 2 := by gcongr
      _ = 4625211117404160000 := by norm_num
  have hmag : toneMag frame coeff = 64 * (powerOf coeff r / 32768) := toneMag_eq frame coeff
  refine ⟨shr_sampleValue_range, hs1, hs2, ?_, abs_scaledProduct_le hlegal r.s1, hnonneg, hpower, ?_, ?_⟩
  all_goals omega

end Sys2Proof.Machine
end

section
/-! SUPPORT. The proof of the statement about R123 in numbers, with the rule's example: `FRAME.SQ 420, 1000` is
four times the same 256 samples, so that its run is four runs of one period. -/

namespace Sys2Proof.Machine

/-! ## The frame of R123's example -/

/-- The sample at place `n` of `FRAME.SQ 420, 1000` (R82). -/
def exampleSample (n : Nat) : Sample := BitVec.ofInt 16 (squareAt 420 1000 n)

theorem exampleSample_eq (n : Nat) :
    exampleSample n =
      if (420 * n) % 1024 < 256 ∨ 768 ≤ (420 * n) % 1024 then BitVec.ofInt 16 1000
      else BitVec.ofInt 16 (-1000) := by
  rw [exampleSample, squareAt, apply_ite (BitVec.ofInt 16)]
  rfl

/-- `420 × 256` is a multiple of 1024. -/
theorem exampleSample_periodic : Function.Periodic exampleSample 256 := by
  intro n
  have hphase : 420 * (n + 256) % 1024 = 420 * n % 1024 := by omega
  rw [exampleSample_eq, exampleSample_eq, hphase]

/-- One period of `FRAME.SQ 420, 1000`. -/
def examplePeriod : List Sample := (List.range 256).map exampleSample

theorem map_exampleSample_range_succ (k : Nat) :
    (List.range ((k + 1) * 256)).map exampleSample =
      (List.range (k * 256)).map exampleSample ++ examplePeriod := by
  have hshift : (List.range 256).map (exampleSample ∘ (k * 256 + ·)) = examplePeriod :=
    List.map_congr_left fun n _ => by
      rw [Function.comp_apply, Nat.add_comm, ← smul_eq_mul, exampleSample_periodic.nsmul]
  rw [Nat.add_one_mul, List.range_add, List.map_append, List.map_map, hshift]

/-! ## Its run -/

/-- The registers after `k` periods, `k ≤ 4`. -/
def exampleRegisters : Nat → Recurrence
  | 0 => ⟨0, 0⟩
  | 1 => ⟨209, -10359⟩
  | 2 => ⟨377, -20686⟩
  | 3 => ⟨505, -30983⟩
  | _ => ⟨581, -41231⟩

theorem foldl_examplePeriod :
    ∀ k < 4, examplePeriod.foldl (filterSample (-27684)) (exampleRegisters k) = exampleRegisters (k + 1) := by
  decide +kernel

theorem filterFrame_example_periods {k : Nat} (hk : k ≤ 4) :
    filterFrame ((List.range (k * 256)).map exampleSample) (-27684) = exampleRegisters k := by
  induction k with
  | zero => rfl
  | succ k ih =>
    rw [map_exampleSample_range_succ, filterFrame_append, ih (by omega), foldl_examplePeriod k hk]

theorem filterFrame_example :
    filterFrame ((List.range 1024).map exampleSample) (-27684) = ⟨581, -41231⟩ := by
  simpa only [Nat.reduceMul, exampleRegisters] using filterFrame_example_periods (le_refl 4)

/-- The first eight values of `s1` that R123 lists. -/
theorem filterFrame_example_start :
    (List.range 8).map (fun i => (filterFrame ((List.range (i + 1)).map exampleSample) (-27684)).s1) =
      [62, -168, 283, -249, 74, 185, -450, 637] := by
  decide +kernel

/-! ## R123 -/

/-- One more sample, in the numbers of R123. -/
theorem filterFrame_concat_eq (frame : List Sample) (x : Sample) (coeff : Int) :
    filterFrame (frame ++ [x]) coeff =
      ⟨x.toInt / 16 + (filterFrame frame coeff).s1 * coeff / 16384 - (filterFrame frame coeff).s2,
        (filterFrame frame coeff).s1⟩ :=
  filterFrame_concat frame x coeff

theorem powerOf_eq (coeff : Int) (r : Recurrence) :
    powerOf coeff r = r.s1 * r.s1 + r.s2 * r.s2 - r.s1 * coeff / 16384 * r.s2 := rfl

/-- Settles O58: the lines of the pseudocode, and the example through its periods. -/
theorem toneMagFollowsRecurrence : Obligations.ToneMagFollowsRecurrence := by
  have hpower : powerOf (-27684) ⟨581, -41231⟩ = 1659844080 := by decide
  unfold Obligations.ToneMagFollowsRecurrence
  simp only [← exampleSample_eq]
  refine ⟨filterFrame_nil, filterFrame_concat_eq, powerOf_eq, toneMag_eq, by decide, by decide, ?_,
    filterFrame_example, ?_, ?_⟩
  · rw [← filterFrame_example_start]
    refine List.map_congr_left fun i hi => ?_
    have hle : i + 1 ≤ 1024 := by have := List.mem_range.mp hi; omega
    rw [← List.map_take, List.take_range, min_eq_left hle]
  · rw [filterFrame_example, hpower]
  · rw [toneMag_eq, filterFrame_example, hpower]; rfl

end Sys2Proof.Machine
end

section
/-! SUPPORT. The proof that the coefficients are the rounded cosines of their bins (spec/41_tone_detector.md
R121, R122): a Taylor polynomial of the cosine, evaluated at two rationals on either side of the angle. -/

namespace Sys2Proof.Machine

/-! ## Bounds on a cosine -/

/-- The Taylor polynomial of degree 6 of the cosine. -/
noncomputable def cosTaylor (x : ℝ) : ℝ := 1 - x ^ 2 / 2 + x ^ 4 / 24 - x ^ 6 / 720

/-- The real part of the Taylor bound of `e^{ix}`. -/
theorem abs_cos_sub_cosTaylor_le {x : ℝ} (hx : |x| ≤ 1) :
    |Real.cos x - cosTaylor x| ≤ |x| ^ 8 / 35840 := by
  have hnorm : ‖(x * Complex.I : ℂ)‖ = |x| := by simp
  have hre : (Complex.exp (x * Complex.I) -
      ∑ m ∈ Finset.range 8, (x * Complex.I) ^ m / m.factorial).re = Real.cos x - cosTaylor x := by
    rw [Complex.sub_re, Complex.exp_ofReal_mul_I_re]
    simp [Finset.sum_range_succ, Nat.factorial, mul_pow, pow_succ, cosTaylor]
    ring
  calc |Real.cos x - cosTaylor x|
      ≤ ‖Complex.exp (x * Complex.I) - ∑ m ∈ Finset.range 8, (x * Complex.I) ^ m / m.factorial‖ :=
        hre ▸ Complex.abs_re_le_norm _
    _ ≤ _ := Complex.exp_bound (hnorm.trans_le hx) (n := 8) (by norm_num)
    _ = |x| ^ 8 / 35840 := by rw [hnorm]; norm_num [Nat.factorial]; ring

/-- The cosine falls between two rationals around the angle, where the polynomial bounds it. -/
theorem cos_between {x lo hi : ℝ} (hlo : 0 ≤ lo) (hhi : hi ≤ 1) (hx : lo ≤ x ∧ x ≤ hi) :
    cosTaylor hi - hi ^ 8 / 35840 ≤ Real.cos x ∧ Real.cos x ≤ cosTaylor lo + lo ^ 8 / 35840 := by
  obtain ⟨hlox, hxhi⟩ := hx
  have hpi := Real.two_le_pi
  have hbound : ∀ y : ℝ, 0 ≤ y → y ≤ 1 → |Real.cos y - cosTaylor y| ≤ y ^ 8 / 35840 := by
    intro y hy0 hy1
    simpa only [abs_of_nonneg hy0] using abs_cos_sub_cosTaylor_le (abs_le.mpr ⟨by linarith, hy1⟩)
  constructor
  · have hanti : Real.cos hi ≤ Real.cos x := Real.cos_le_cos_of_nonneg_of_le_pi (by linarith) (by linarith) hxhi
    linarith [(abs_le.mp (hbound hi (by linarith) hhi)).1]
  · have hanti : Real.cos x ≤ Real.cos lo := Real.cos_le_cos_of_nonneg_of_le_pi hlo (by linarith) hlox
    linarith [(abs_le.mp (hbound lo hlo (by linarith))).2]

/-! ## The formula of R121 -/

/-- `round(2·cos(2π·k/1024) · 2^14)` (R121). -/
noncomputable def coeffOfBin (k : Nat) : Int := round (2 * Real.cos (2 * Real.pi * k / 1024) * 2 ^ 14)

/-- The coefficient of a bin from its cosine, to within half a unit of `2^15`. -/
theorem coeffOfBin_eq {k : Nat} {c : Int}
    (hcos : (c - 1 / 2 : ℝ) / 32768 ≤ Real.cos (2 * Real.pi * k / 1024) ∧
      Real.cos (2 * Real.pi * k / 1024) < (c + 1 / 2 : ℝ) / 32768) : coeffOfBin k = c := by
  obtain ⟨hlow, hhigh⟩ := hcos
  rw [coeffOfBin, round_eq_iff, Set.mem_Ico]
  constructor <;> linarith

theorem coeffOfBin_zero : coeffOfBin 0 = 32768 := by
  apply coeffOfBin_eq
  norm_num

theorem coeffOfBin_one : coeffOfBin 1 = 32767 := by
  have hpi := Real.pi_gt_d6
  have hpi' := Real.pi_lt_d6
  have hcos := cos_between (x := 2 * Real.pi * (1 : Nat) / 1024) (lo := 0.0061) (hi := 0.0062)
    (by norm_num) (by norm_num) (by constructor <;> norm_num <;> linarith)
  norm_num [cosTaylor] at hcos
  apply coeffOfBin_eq
  norm_num
  constructor <;> linarith

/-- Bin 128 is the angle `π/4`. -/
theorem coeffOfBin_eighth : coeffOfBin 128 = 23170 := by
  have hangle : 2 * Real.pi * (128 : Nat) / 1024 = Real.pi / 4 := by push_cast; ring
  have hlow : (1.4142 : ℝ) ≤ √2 := Real.le_sqrt_of_sq_le (by norm_num)
  have hhigh : √2 < (1.414214 : ℝ) := (Real.sqrt_lt' (by norm_num)).mpr (by norm_num)
  apply coeffOfBin_eq
  rw [hangle, Real.cos_pi_div_four]
  constructor <;> norm_num <;> linarith

theorem coeffOfBin_quarter : coeffOfBin 256 = 0 := by
  have hangle : 2 * Real.pi * (256 : Nat) / 1024 = Real.pi / 2 := by push_cast; ring
  apply coeffOfBin_eq
  rw [hangle, Real.cos_pi_div_two]
  norm_num

theorem coeffOfBin_half : coeffOfBin 512 = -32768 := by
  have hangle : 2 * Real.pi * (512 : Nat) / 1024 = Real.pi := by push_cast; ring
  apply coeffOfBin_eq
  rw [hangle, Real.cos_pi]
  norm_num

/-- A bin whose angle falls short of `π` by an amount between two rationals: the cosine is the negative of
that amount's. -/
theorem coeffOfBin_of_short_of_pi {k : Nat} {c : Int} {lo hi : ℝ} (hlo : 0 ≤ lo) (hhi : hi ≤ 1)
    (hangle : lo ≤ Real.pi - 2 * Real.pi * k / 1024 ∧ Real.pi - 2 * Real.pi * k / 1024 ≤ hi)
    (hlow : (-c - 1 / 2 : ℝ) / 32768 < cosTaylor hi - hi ^ 8 / 35840)
    (hhigh : cosTaylor lo + lo ^ 8 / 35840 ≤ (-c + 1 / 2 : ℝ) / 32768) : coeffOfBin k = c := by
  obtain ⟨hcoslow, hcoshigh⟩ := cos_between hlo hhi hangle
  rw [Real.cos_pi_sub] at hcoslow hcoshigh
  apply coeffOfBin_eq
  constructor <;> linarith

/-- The payload carrier's bin: `7π/32` short of `π`. -/
theorem coeffOfBin_payload : coeffOfBin Config.kPayload = Config.coeffPayload := by
  have hpi := Real.pi_gt_d6
  have hpi' := Real.pi_lt_d6
  refine coeffOfBin_of_short_of_pi (lo := 0.68722) (hi := 0.68723) (by norm_num) (by norm_num) ?_ ?_ ?_
  · constructor <;> norm_num [Config.kPayload] <;> linarith
  · norm_num [cosTaylor, Config.coeffPayload]
  · norm_num [cosTaylor, Config.coeffPayload]

/-- The sync carrier's bin: `23π/128` short of `π`. -/
theorem coeffOfBin_sync : coeffOfBin Config.kSync = Config.coeffSync := by
  have hpi := Real.pi_gt_d6
  have hpi' := Real.pi_lt_d6
  refine coeffOfBin_of_short_of_pi (lo := 0.5645) (hi := 0.56451) (by norm_num) (by norm_num) ?_ ?_ ?_
  · constructor <;> norm_num [Config.kSync] <;> linarith
  · norm_num [cosTaylor, Config.coeffSync]
  · norm_num [cosTaylor, Config.coeffSync]

/-- Settles O34: the bins by multiplication, the carriers' cosines by their bounds. -/
theorem coefficientsAreTheFormulas : Obligations.CoefficientsAreTheFormulas :=
  ⟨by decide, by decide, coeffOfBin_sync, coeffOfBin_payload, by decide, by decide, coeffOfBin_zero,
    coeffOfBin_one, coeffOfBin_eighth, coeffOfBin_quarter, coeffOfBin_half⟩

end Sys2Proof.Machine
end

section
/-! SUPPORT. The proofs of the statements of spec/42_debouncer.md: the carrier of a frame (R140), what frames do
to the window and to the frame counter (R142 to R147), and that the bits an idle block has left in the window
reach nothing (R148). -/

namespace Sys2Proof.Machine

/-! ## The carrier (R140) -/

theorem stepFrame_eq_vote {st : State} {c : Int} (hc : carrierCoeff st.phase = c) (frame : List Sample) :
    st.stepFrame frame = st.vote (detect (toneMag frame c)) := by
  rw [State.stepFrame, State.rawBit, hc]

/-- Settles O35: CARRIER_SEL and `carrier_sel` ask the same of the phase. -/
theorem carrierFollowsPhase : Obligations.CarrierFollowsPhase := by
  refine ⟨fun st frame hlocked => ⟨stepFrame_eq_vote ?_ frame, ?_⟩,
    fun st frame hother => ⟨stepFrame_eq_vote ?_ frame, ?_⟩⟩
  · exact (carrierCoeff_eq _).trans (if_pos hlocked)
  · exact (carrierSel_eq st).trans (if_pos hlocked)
  · exact (carrierCoeff_eq _).trans (if_neg hother)
  · exact (carrierSel_eq st).trans (if_neg hother)

/-! ## The window (R142) -/

/-- Bit `i` of the window is the raw bit of `i` frames ago, and behind the oldest of them a bit that stood
there before. -/
theorem votes_win_bit (st : State) (bits : List Bool) {i : Nat} (hi : i < 5) :
    (votes bits st).win.getLsbD i = bits.reverse.getD i (st.win.getLsbD (i - bits.length)) := by
  induction bits using List.reverseRecOn generalizing i with
  | nil => rfl
  | append_singleton bits b ih =>
    rw [votes_append, votes_cons, votes_nil, vote_win, shiftWindow_bit _ _ i hi, List.reverse_concat,
      List.length_append, List.length_singleton]
    cases i with
    | zero => rfl
    | succ i =>
      rw [if_neg (Nat.succ_ne_zero i), Nat.add_sub_cancel, Nat.add_sub_add_right i 1 bits.length]
      exact ih (by omega)

/-- Settles O37. -/
theorem windowHoldsLastFive : Obligations.WindowHoldsLastFive := by
  intro st b1 b2 b3 b4 b5 w
  have hbit {i : Nat} (hi : i < 5) : w.getLsbD i = [b5, b4, b3, b2, b1].getD i (st.win.getLsbD (i - 5)) :=
    votes_win_bit st [b1, b2, b3, b4, b5] hi
  exact ⟨hbit (i := 4) (by decide), hbit (i := 3) (by decide), hbit (i := 2) (by decide),
    hbit (i := 1) (by decide), hbit (i := 0) (by decide)⟩

theorem onesIn_cons (b : Bool) (window : List Bool) : onesIn (b :: window) = onesIn window + b.toNat := by
  cases b <;> simp [onesIn]

/-- `sum` after five frames (R142). -/
theorem windowSum_votes_five (st : State) (b1 b2 b3 b4 b5 : Bool) :
    (votes [b1, b2, b3, b4, b5] st).windowSum = onesIn [b1, b2, b3, b4, b5] := by
  obtain ⟨h4, h3, h2, h1, h0⟩ := windowHoldsLastFive st b1 b2 b3 b4 b5
  simp only [State.windowSum, popcount, h4, h3, h2, h1, h0, onesIn_cons]
  rw [show onesIn [] = 0 from rfl, Nat.zero_add]

/-! ## Idle frames (R143) -/

/-- Settles O36, by induction on the number of frames. -/
theorem idleFramesAdvanceNothing : Obligations.IdleFramesAdvanceNothing := by
  intro st n hidle
  induction n generalizing st with
  | zero => exact ⟨st.win, rfl, id⟩
  | succ n ih =>
    obtain ⟨w, hvotes, hzero⟩ := ih (st.shiftWin false) hidle
    refine ⟨w, ?_, fun hwin => hzero ?_⟩
    · rw [List.replicate_succ, votes_cons, vote_quiet hidle, hvotes]
      rfl
    · rw [State.shiftWin_win, hwin]
      decide

/-! ## Five frames make a bit window (R144, R145, R147) -/

/-- A window's first frame: the activating one (R144), or the one after a boundary (R145). -/
theorem vote_opens_window {st : State} {raw : Bool} (hcnt : st.frameCnt = 0)
    (hidle : st.transferActive = false → raw = true) :
    st.vote raw = { st with win := shiftWindow st.win raw, transferActive := true, frameCnt := 1 } := by
  cases hactive : st.transferActive with
  | false =>
    rw [hidle hactive, vote_activates hactive]
    rfl
  | true =>
    rw [vote_counts raw hactive (by rw [hcnt]; decide), State.shiftWin, hcnt, hactive]
    rfl

/-- The first four frames of a window only count and shift (R145). -/
theorem votes_four_of_window {st : State} {b1 : Bool} (b2 b3 b4 : Bool) (hcnt : st.frameCnt = 0)
    (hidle : st.transferActive = false → b1 = true) :
    ∃ w, votes [b1, b2, b3, b4] st = { st with win := w, transferActive := true, frameCnt := 4 } := by
  rw [votes_cons, vote_opens_window hcnt hidle, votes_cons, vote_counts b2 rfl (by decide : (1 : Fin 5) ≠ 4),
    votes_cons, vote_counts b3 rfl (by decide : (2 : Fin 5) ≠ 4),
    votes_cons, vote_counts b4 rfl (by decide : (3 : Fin 5) ≠ 4)]
  exact ⟨_, rfl⟩

/-- Settles O38: the fifth frame finds `frame_cnt` at 4, and the window then holds the five raw bits. -/
theorem fiveFramesMakeOneWindow : Obligations.FiveFramesMakeOneWindow := by
  intro st b1 b2 b3 b4 b5 hcnt hidle
  obtain ⟨w, hfour⟩ := votes_four_of_window b2 b3 b4 hcnt hidle
  have hfive : votes [b1, b2, b3, b4, b5] st =
      ({ st with win := w, transferActive := true, frameCnt := 4 } : State).vote b5 := by
    rw [← hfour]
    rfl
  have hsum : popcount (shiftWindow w b5) = onesIn [b1, b2, b3, b4, b5] := by
    rw [← windowSum_votes_five st, State.windowSum, hfive, vote_win]
  refine ⟨⟨w, hfour⟩, shiftWindow w b5, ?_⟩
  rw [hfive, vote_decodes b5 rfl rfl, hsum]
  rfl

/-! ## Two blocks on the same raw bits (R148)

Two blocks that agree in the decoder and in the newest `frame_cnt` bits of `win` go on agreeing: DECODE reads
the window only at a boundary, when its five bits are all of the running bit window. -/

/-- Two blocks agree in the decoder, and have emitted the same since their event ports had carried `pa`
and `pb`. -/
structure InStep (pa pb : List Event) (a b : State) : Prop where
  phase : a.phase = b.phase
  transferActive : a.transferActive = b.transferActive
  bitWindowIndex : a.bitWindowIndex = b.bitWindowIndex
  pendingByte : a.pendingByte = b.pendingByte
  bitsInByte : a.bitsInByte = b.bitsInByte
  frameCnt : a.frameCnt = b.frameCnt
  events : ∃ es, a.events = pa ++ es ∧ b.events = pb ++ es

/-- The newest `n` bits of two windows agree. -/
def SameNewest (n : Nat) (v w : BitVec 5) : Prop := ∀ i < n, v.getLsbD i = w.getLsbD i

theorem SameNewest.shiftWindow {n : Nat} {v w : BitVec 5} (h : SameNewest n v w) (hn : n < 5) (raw : Bool) :
    SameNewest (n + 1) (shiftWindow v raw) (shiftWindow w raw) := by
  intro i hi
  rw [shiftWindow_bit v raw i (by omega), shiftWindow_bit w raw i (by omega)]
  split
  · rfl
  · exact h _ (by omega)

theorem SameNewest.mono {m n : Nat} {v w : BitVec 5} (h : SameNewest n v w) (hmn : m ≤ n) :
    SameNewest m v w :=
  fun i hi => h i (by omega)

theorem SameNewest.eq {v w : BitVec 5} (h : SameNewest 5 v w) : v = w := BitVec.eq_of_getLsbD_eq h

namespace InStep

variable {pa pb : List Event} {a b : State}

theorem emit (h : InStep pa pb a b) (e : Event) : InStep pa pb (a.emit e) (b.emit e) := by
  obtain ⟨es, ha, hb⟩ := h.events
  refine { h with events := ⟨es ++ [e], ?_, ?_⟩ }
  · rw [State.emit_events, ha, List.append_assoc]
  · rw [State.emit_events, hb, List.append_assoc]

theorem withPhase (h : InStep pa pb a b) (p : Phase) :
    InStep pa pb { a with phase := p } { b with phase := p } := { h with phase := rfl }

theorem loseSync (h : InStep pa pb a b) : InStep pa pb a.loseSync b.loseSync := (h.withPhase .failed).emit _

theorem checkPreamble (h : InStep pa pb a b) (sum : Nat) :
    InStep pa pb (a.checkPreamble sum) (b.checkPreamble sum) := by
  unfold State.checkPreamble
  rw [← h.phase]
  cases a.phase with
  | locked | failed => exact h
  | expectOne =>
    dsimp only
    split
    · exact h.withPhase _
    · exact h.loseSync
  | expectZero =>
    dsimp only
    split
    · exact h.withPhase _
    · exact h.loseSync

theorem accumulateBit (h : InStep pa pb a b) (bit : Bool) :
    InStep pa pb (a.accumulateBit bit) (b.accumulateBit bit) :=
  { h with
    pendingByte := by rw [State.accumulateBit_pendingByte, State.accumulateBit_pendingByte, h.pendingByte]
    bitsInByte := by rw [State.accumulateBit_bitsInByte, State.accumulateBit_bitsInByte, h.bitsInByte] }

theorem deliverByte (h : InStep pa pb a b) : InStep pa pb a.deliverByte b.deliverByte := by
  unfold State.deliverByte
  rw [← h.pendingByte, ← h.phase]
  split
  · exact h.emit _
  · cases a.phase with
    | expectOne => exact { h with phase := rfl, pendingByte := rfl }
    | locked => exact h.emit _
    | expectZero | failed => exact h

theorem byteBoundary (h : InStep pa pb a b) : InStep pa pb a.byteBoundary b.byteBoundary := by
  unfold State.byteBoundary
  rw [← h.bitsInByte]
  split
  · exact { h.deliverByte with pendingByte := rfl }
  · exact h

theorem countWindow (h : InStep pa pb a b) : InStep pa pb a.countWindow b.countWindow :=
  { h with bitWindowIndex := congrArg (· + 1#32) h.bitWindowIndex }

theorem stopReset (h : InStep pa pb a b) : InStep pa pb a.stopReset b.stopReset :=
  { h with phase := rfl, transferActive := rfl, bitWindowIndex := rfl, pendingByte := rfl, bitsInByte := rfl }

theorem stopSeen_eq (h : InStep pa pb a b) : a.stopSeen = b.stopSeen := by
  rw [State.stopSeen, State.stopSeen, h.bitsInByte, h.pendingByte]

/-- DECODE reads nothing of a block but its decoder (R160). -/
theorem decodeWindow (h : InStep pa pb a b) (sum : Nat) :
    InStep pa pb (a.decodeWindow sum) (b.decodeWindow sum) := by
  have hbits := (h.checkPreamble sum).accumulateBit (majorityBit sum)
  unfold State.decodeWindow
  dsimp only
  rw [← hbits.stopSeen_eq]
  split
  · exact hbits.byteBoundary.countWindow.stopReset
  · exact hbits.byteBoundary.countWindow

theorem shiftWin (h : InStep pa pb a b) (raw : Bool) : InStep pa pb (a.shiftWin raw) (b.shiftWin raw) :=
  { h with }

theorem withFrameCnt (h : InStep pa pb a b) (n : Fin 5) :
    InStep pa pb { a with frameCnt := n } { b with frameCnt := n } := { h with frameCnt := rfl }

theorem activate (h : InStep pa pb a b) : InStep pa pb a.activate b.activate :=
  { h with transferActive := rfl, frameCnt := rfl }

/-- One more raw bit: at a boundary the two windows are equal, and behind it no bit of them counts. -/
theorem vote (h : InStep pa pb a b) (hwin : SameNewest a.frameCnt a.win b.win) (raw : Bool) :
    InStep pa pb (a.vote raw) (b.vote raw) ∧
      SameNewest (a.vote raw).frameCnt (a.vote raw).win (b.vote raw).win := by
  have hshift := hwin.shiftWindow a.frameCnt.isLt raw
  rw [vote_win, vote_win]
  rcases vote_cases a raw with
    ⟨hidle, rfl, ha⟩ | ⟨hidle, rfl, ha⟩ | ⟨hactive, hcnt, ha⟩ | ⟨hactive, hcnt, ha⟩ <;> rw [ha]
  · rw [vote_quiet (h.transferActive ▸ hidle)]
    exact ⟨h.shiftWin false, hshift.mono (Nat.le_succ _)⟩
  · rw [vote_activates (h.transferActive ▸ hidle)]
    exact ⟨(h.shiftWin true).activate, hshift.mono (Nat.le_add_left 1 _)⟩
  · rw [vote_counts raw (h.transferActive ▸ hactive) (h.frameCnt ▸ hcnt), ← h.frameCnt]
    have hval : (a.frameCnt + 1).val = a.frameCnt.val + 1 := Fin.val_add_one_of_lt' (by omega)
    exact ⟨(h.shiftWin raw).withFrameCnt _, hval ▸ hshift⟩
  · have hequal : shiftWindow a.win raw = shiftWindow b.win raw := by
      rw [hcnt] at hshift
      exact hshift.eq
    have hzero : (State.decodeWindow { a.shiftWin raw with frameCnt := 0 }
        (popcount (shiftWindow a.win raw))).frameCnt = 0 := (decodeWindow_frame _ _).2.2
    rw [vote_decodes raw (h.transferActive ▸ hactive) (h.frameCnt ▸ hcnt), ← hequal, hzero]
    exact ⟨((h.shiftWin raw).withFrameCnt 0).decodeWindow _, nofun⟩

theorem votes (h : InStep pa pb a b) (hwin : SameNewest a.frameCnt a.win b.win) (bits : List Bool) :
    InStep pa pb (votes bits a) (votes bits b) := by
  induction bits generalizing a b with
  | nil => exact h
  | cons raw bits ih =>
    obtain ⟨hvote, hwin'⟩ := h.vote hwin raw
    exact ih hvote hwin'

end InStep

/-- Idle blocks agree in the decoder (R37 b). -/
theorem inStep_of_idle {a b : State} (ha : DecoderIdle a) (hb : DecoderIdle b) :
    InStep a.events b.events a b := by
  obtain ⟨hactive, hphase, hcnt, hindex, hbyte, hbits⟩ := ha
  obtain ⟨hactive', hphase', hcnt', hindex', hbyte', hbits'⟩ := hb
  exact ⟨hphase.trans hphase'.symm, hactive.trans hactive'.symm, hindex.trans hindex'.symm,
    hbyte.trans hbyte'.symm, hbits.trans hbits'.symm, hcnt.trans hcnt'.symm,
    [], (List.append_nil _).symm, (List.append_nil _).symm⟩

/-- Settles O44: while `frame_cnt` is 0, no bit of the window counts. -/
theorem staleWindowBitsNeverMatter : Obligations.StaleWindowBitsNeverMatter := by
  intro a b bits ha hb
  have hwin : SameNewest a.frameCnt a.win b.win := by
    obtain ⟨-, -, hcnt, -⟩ := ha
    rw [hcnt]
    nofun
  obtain ⟨hphase, hactive, hindex, hbyte, hbits, hcnt, es, hea, heb⟩ :=
    (inStep_of_idle ha hb).votes hwin bits
  exact ⟨es, hea, heb, hphase, hactive, hindex, hbyte, hbits, hcnt⟩

end Sys2Proof.Machine
end

section
/-! SUPPORT. The proofs of the statements of spec/43_decoder.md: DECODE against the two tables of R167, the
events it emits (R168, R171), how it locks and fails (R166, R169), a whole transmission (R172), and what a
CONSUME depends on (R170). -/

namespace Sys2Proof.Machine

/-! ## The byte taken in (R162) -/

/-- A byte after one more bit, most significant bit first (R162). -/
def takeBit (p : Byte) (bit : Bool) : Byte := (p <<< 1) ||| (bitOf bit).zeroExtend 8

theorem takeBit_eq_ofNat (p : Byte) (bit : Bool) : takeBit p bit = BitVec.ofNat 8 (2 * p.toNat + bit.toNat) := by
  revert p bit
  decide

theorem takeBit_majorityBit (p : Byte) (sum : Nat) :
    takeBit p (majorityBit sum) = BitVec.ofNat 8 (2 * p.toNat + if sum > 2 then 1 else 0) := by
  rw [takeBit_eq_ofNat, majorityBit, Bool.toNat, Bool.cond_decide]
  rfl

theorem takeBit_eq_zero_iff (p : Byte) (bit : Bool) :
    takeBit p bit = 0#8 ↔ p &&& 0x7F#8 = 0#8 ∧ bit = false := by
  revert p bit
  decide

theorem majorityBit_eq_false_iff (sum : Nat) : majorityBit sum = false ↔ sum ≤ 2 := by
  rw [majorityBit, decide_eq_false_iff_not, Nat.not_lt]
  rfl

/-- The eighth bit of a byte is the one that finds seven taken. -/
theorem succ_eq_zero_iff (n : BitVec 3) : n + 1#3 = 0#3 ↔ n = 7#3 := by bv_omega

/-! ## The two tables (R167) -/

theorem checkPreamble_eq_preambleTable (st : State) (sum : Nat) :
    st.checkPreamble sum =
      { st with phase := (preambleTable st.phase sum).1
                events := st.events ++ (preambleTable st.phase sum).2 } := by
  unfold State.checkPreamble
  cases hphase : st.phase with
  | locked | failed => simp [preambleTable, ← hphase]
  | expectOne =>
    by_cases hsum : sum = 5
    · simp [preambleTable, hsum]
    · simp [preambleTable, hsum, State.loseSync, State.emit]
  | expectZero =>
    by_cases hsum : sum = 0
    · simp [preambleTable, hsum]
    · simp [preambleTable, hsum, State.loseSync, State.emit]

theorem deliverByte_eq_byteTable {st : State} (hbyte : st.pendingByte ≠ Config.stopByte) :
    st.deliverByte =
      { st with phase := (byteTable st.pendingByte st.phase).1
                events := st.events ++ (byteTable st.pendingByte st.phase).2 } := by
  rw [State.deliverByte, if_neg hbyte]
  cases hphase : st.phase with
  | expectOne => simp [byteTable]
  | locked => simp [byteTable, State.emit, ← hphase]
  | expectZero | failed => simp [byteTable, ← hphase]

theorem preambleTable_eq_locked_iff (p : Phase) (sum : Nat) :
    (preambleTable p sum).1 = .locked ↔ p = .locked := by
  cases p with
  | locked | failed => simp [preambleTable]
  | expectOne => by_cases hsum : sum = 5 <;> simp [preambleTable, hsum]
  | expectZero => by_cases hsum : sum = 0 <;> simp [preambleTable, hsum]

theorem preambleTable_eq_expectOne_iff (p : Phase) (sum : Nat) :
    (preambleTable p sum).1 = .expectOne ↔ p = .expectZero ∧ sum = 0 := by
  cases p with
  | locked | failed => simp [preambleTable]
  | expectOne => by_cases hsum : sum = 5 <;> simp [preambleTable, hsum]
  | expectZero => by_cases hsum : sum = 0 <;> simp [preambleTable, hsum]

theorem byteTable_eq_locked_iff (b : Byte) (p : Phase) :
    (byteTable b p).1 = .locked ↔ p = .expectOne ∨ p = .locked := by
  cases p <;> simp [byteTable]

/-! ## DECODE (R160) -/

/-- Steps 1 and 2 of DECODE: the preamble checked, and the window's bit taken in. -/
def State.takeWindow (st : State) (sum : Nat) : State :=
  (st.checkPreamble sum).accumulateBit (majorityBit sum)

theorem takeWindow_eq (st : State) (sum : Nat) :
    st.takeWindow sum =
      { st with phase := (preambleTable st.phase sum).1
                pendingByte := takeBit st.pendingByte (majorityBit sum)
                bitsInByte := st.bitsInByte + 1#3
                events := st.events ++ (preambleTable st.phase sum).2 } := by
  rw [State.takeWindow, checkPreamble_eq_preambleTable]
  rfl

theorem decodeWindow_eq_takeWindow (st : State) (sum : Nat) :
    st.decodeWindow sum =
      if (st.takeWindow sum).stopSeen then (st.takeWindow sum).byteBoundary.countWindow.stopReset
      else (st.takeWindow sum).byteBoundary.countWindow := rfl

section Boundary

variable {st : State}

theorem stopSeen_iff : st.stopSeen = true ↔ st.bitsInByte = 0#3 ∧ st.pendingByte = Config.stopByte := by
  simp [State.stopSeen]

theorem byteBoundary_of_partial (hbits : st.bitsInByte ≠ 0#3) : st.byteBoundary = st := if_neg hbits

theorem byteBoundary_of_stop (hbits : st.bitsInByte = 0#3) (hstop : st.pendingByte = Config.stopByte) :
    st.byteBoundary = { st.emit .txEnded with pendingByte := 0#8 } := by
  rw [State.byteBoundary, if_pos hbits, State.deliverByte, if_pos hstop]

theorem byteBoundary_of_byte (hbits : st.bitsInByte = 0#3) (hbyte : st.pendingByte ≠ Config.stopByte) :
    st.byteBoundary =
      { st with phase := (byteTable st.pendingByte st.phase).1
                pendingByte := 0#8
                events := st.events ++ (byteTable st.pendingByte st.phase).2 } := by
  rw [State.byteBoundary, if_pos hbits, deliverByte_eq_byteTable hbyte]

end Boundary

section DecodeWindow

variable {st : State} {sum : Nat}

theorem decodeWindow_of_partial (hbits : st.bitsInByte ≠ 7#3) :
    st.decodeWindow sum =
      { st with phase := (preambleTable st.phase sum).1
                bitWindowIndex := st.bitWindowIndex + 1#32
                pendingByte := takeBit st.pendingByte (majorityBit sum)
                bitsInByte := st.bitsInByte + 1#3
                events := st.events ++ (preambleTable st.phase sum).2 } := by
  have hoff : (st.takeWindow sum).bitsInByte ≠ 0#3 := by
    rw [takeWindow_eq]
    exact mt (succ_eq_zero_iff _).mp hbits
  rw [decodeWindow_eq_takeWindow, if_neg fun h => hoff (stopSeen_iff.mp h).1, byteBoundary_of_partial hoff,
    takeWindow_eq]
  rfl

theorem decodeWindow_of_stop (hbits : st.bitsInByte = 7#3)
    (hstop : takeBit st.pendingByte (majorityBit sum) = 0#8) :
    st.decodeWindow sum =
      { st with phase := .expectOne
                transferActive := false
                bitWindowIndex := 0#32
                pendingByte := 0#8
                bitsInByte := 0#3
                events := st.events ++ (preambleTable st.phase sum).2 ++ [.txEnded] } := by
  have hend : (st.takeWindow sum).bitsInByte = 0#3 := by
    rw [takeWindow_eq]
    exact (succ_eq_zero_iff _).mpr hbits
  have hzero : (st.takeWindow sum).pendingByte = Config.stopByte := by
    rw [takeWindow_eq]
    exact hstop
  rw [decodeWindow_eq_takeWindow, if_pos (stopSeen_iff.mpr ⟨hend, hzero⟩), byteBoundary_of_stop hend hzero,
    takeWindow_eq]
  rfl

theorem decodeWindow_of_byte (hbits : st.bitsInByte = 7#3) {b : Byte}
    (hb : takeBit st.pendingByte (majorityBit sum) = b) (hbyte : b ≠ 0#8) :
    st.decodeWindow sum =
      { st with phase := (byteTable b (preambleTable st.phase sum).1).1
                bitWindowIndex := st.bitWindowIndex + 1#32
                pendingByte := 0#8
                bitsInByte := 0#3
                events := st.events ++ (preambleTable st.phase sum).2 ++
                  (byteTable b (preambleTable st.phase sum).1).2 } := by
  have hend : st.bitsInByte + 1#3 = 0#3 := (succ_eq_zero_iff _).mpr hbits
  have hne : (st.takeWindow sum).pendingByte ≠ Config.stopByte := by
    rw [takeWindow_eq]
    exact hb ▸ hbyte
  rw [decodeWindow_eq_takeWindow, if_neg fun h => hne (stopSeen_iff.mp h).2,
    byteBoundary_of_byte (by rw [takeWindow_eq]; exact hend) hne, takeWindow_eq, ← hb, hend]
  rfl

end DecodeWindow

/-- Settles O39: off a byte boundary, the stop byte, and any other byte. -/
theorem decodeFollowsTables : Obligations.DecodeFollowsTables := by
  intro st sum _ step1 b
  have hb : takeBit st.pendingByte (majorityBit sum) = b := takeBit_majorityBit st.pendingByte sum
  split_ifs with hbits hstop
  · exact decodeWindow_of_stop hbits (hb.trans hstop)
  · exact decodeWindow_of_byte hbits hb hstop
  · rw [decodeWindow_of_partial hbits, hb]

/-- Settles O40, by what one DECODE emits. -/
theorem decodeEmitsAtMostOneEvent : Obligations.DecodeEmitsAtMostOneEvent := by
  intro st sum _ hinv _
  obtain ⟨es, hevents, hes⟩ := decodeWindow_emits_oneDecoderEvent hinv sum
  refine ⟨es, hevents, ?_⟩
  rcases hes with rfl | ⟨d, -, rfl⟩ | rfl | rfl <;> simp

/-! ## Locking (R169) -/

/-- DECODE enters LOCKED only where step 1 accepts the last 0 of the preamble and a byte is complete
(R161, R163). -/
theorem eq_of_decodeWindow_locks {st : State} {sum : Nat} (hphase : st.phase ≠ .locked)
    (hlocks : (st.decodeWindow sum).phase = .locked) :
    (st.phase = .expectZero ∧ sum = 0) ∧ st.bitsInByte = 7#3 ∧
      (st.decodeWindow sum).bitWindowIndex = st.bitWindowIndex + 1#32 := by
  have hstep1 : (preambleTable st.phase sum).1 ≠ .locked := mt (preambleTable_eq_locked_iff _ _).mp hphase
  by_cases hbits : st.bitsInByte = 7#3
  · by_cases hstop : takeBit st.pendingByte (majorityBit sum) = 0#8
    · rw [decodeWindow_of_stop hbits hstop] at hlocks
      cases hlocks
    · rw [decodeWindow_of_byte hbits rfl hstop] at hlocks ⊢
      have hone := ((byteTable_eq_locked_iff _ _).mp hlocks).resolve_right hstep1
      exact ⟨(preambleTable_eq_expectOne_iff _ _).mp hone, hbits, rfl⟩
  · rw [decodeWindow_of_partial hbits] at hlocks
    exact absurd hlocks hstep1

/-- Settles O41: in the preamble, the bits taken say which window it is and what they were. -/
theorem lockMeansPreambleByte : Obligations.LockMeansPreambleByte := by
  intro st sum _ hinv hphase hlocks
  obtain ⟨⟨hzero, hsum⟩, hbits, hnext⟩ := eq_of_decodeWindow_locks hphase hlocks
  have hpre : InPreamble st := .inr hzero
  have hindex : st.bitWindowIndex = 7#32 := by
    apply BitVec.eq_of_toNat_eq
    rw [← bitsInByte_toNat_of_inPreamble hinv hpre, hbits]
    rfl
  have hbyte : st.pendingByte = 0x55#8 := by
    rw [hinv.preambleBits hpre, hbits]
    decide
  exact ⟨hzero, hsum, hindex, hbits, hbyte, by rw [hnext, hindex]; rfl⟩

/-! ## After a failed preamble (R166) -/

/-- Settles O42: in FAILED both tables answer FAILED and no event. -/
theorem failedUntilStopByte : Obligations.FailedUntilStopByte := by
  intro st sum _ hphase t
  have hstop := takeBit_eq_zero_iff st.pendingByte (majorityBit sum)
  rw [majorityBit_eq_false_iff] at hstop
  rw [← takeBit_majorityBit]
  by_cases hbits : st.bitsInByte = 7#3
  · by_cases hzero : takeBit st.pendingByte (majorityBit sum) = 0#8
    · rw [if_pos ⟨hbits, hstop.mp hzero⟩, show t = _ from decodeWindow_of_stop hbits hzero, hphase]
      simp [preambleTable]
    · rw [if_neg fun h => hzero (hstop.mpr h.2), show t = _ from decodeWindow_of_byte hbits rfl hzero, hphase]
      simp [preambleTable, byteTable, hbits]
  · rw [if_neg fun h => hbits h.1, show t = _ from decodeWindow_of_partial hbits, hphase]
    simp [preambleTable, hbits]

/-! ## A transmission (R172) -/

/-- What `pending_byte` holds once the bits are taken in (R162). -/
def byteOfBits (bits : List Bool) : Byte := bits.foldl takeBit 0#8

theorem byteOfBits_concat (bits : List Bool) (bit : Bool) :
    byteOfBits (bits ++ [bit]) = takeBit (byteOfBits bits) bit :=
  List.foldl_concat _ _ _ _

theorem byteOfBits_byteBits (b : Byte) : byteOfBits (byteBits b) = b := by
  revert b
  decide

/-- Windows of five raw bits whose majorities are the bits (R146). -/
def Spells (windows : List (List Bool)) (bits : List Bool) : Prop :=
  (∀ w ∈ windows, w.length = 5) ∧ windows.map (fun w => majorityBit (onesIn w)) = bits

namespace Spells

theorem append_inv {windows : List (List Bool)} {a b : List Bool} (h : Spells windows (a ++ b)) :
    ∃ front back, windows = front ++ back ∧ Spells front a ∧ Spells back b := by
  obtain ⟨hlen, hmap⟩ := h
  obtain ⟨front, back, rfl, hfront, hback⟩ := List.map_eq_append_iff.mp hmap
  exact ⟨front, back, rfl, ⟨fun w hw => hlen w (List.mem_append_left _ hw), hfront⟩,
    fun w hw => hlen w (List.mem_append_right _ hw), hback⟩

theorem cons_inv {windows : List (List Bool)} {bit : Bool} {bits : List Bool}
    (h : Spells windows (bit :: bits)) :
    ∃ w rest, windows = w :: rest ∧ w.length = 5 ∧ majorityBit (onesIn w) = bit ∧ Spells rest bits := by
  obtain ⟨hlen, hmap⟩ := h
  obtain ⟨w, rest, rfl, hbit, hrest⟩ := List.map_eq_cons_iff.mp hmap
  exact ⟨w, rest, rfl, hlen w List.mem_cons_self, hbit, fun v hv => hlen v (List.mem_cons_of_mem _ hv), hrest⟩

theorem eq_nil {windows : List (List Bool)} (h : Spells windows []) : windows = [] :=
  List.map_eq_nil_iff.mp h.2

end Spells

/-- The block is LOCKED between two bit windows, with these bits of the next byte taken and these events
emitted. -/
structure Receiving (es : List Event) (taken : List Bool) (st : State) : Prop where
  phase : st.phase = .locked
  active : st.transferActive = true
  frameCnt : st.frameCnt = 0
  pendingByte : st.pendingByte = byteOfBits taken
  bitsInByte : st.bitsInByte = BitVec.ofNat 3 taken.length
  events : st.events = es

namespace Receiving

variable {es : List Event} {taken : List Bool} {st : State} {windows : List (List Bool)}

/-- The five frames of a window bring one DECODE, of a block that differs from this one in `win` (R145). -/
theorem votes_window (h : Receiving es taken st) {w : List Bool} (hlen : w.length = 5) :
    ∃ mid, Receiving es taken mid ∧ votes w st = mid.decodeWindow (onesIn w) := by
  match w, hlen with
  | [b1, b2, b3, b4, b5], _ =>
    obtain ⟨-, win, hvotes⟩ := fiveFramesMakeOneWindow st b1 b2 b3 b4 b5 h.frameCnt
      fun hidle => by cases h.active.symm.trans hidle
    refine ⟨{ st with win := win, transferActive := true, frameCnt := 0 }, ?_, hvotes⟩
    exact { h with active := rfl, frameCnt := rfl }

/-- A window within a byte adds its bit (R162). -/
theorem window_within (h : Receiving es taken st) (htaken : taken.length < 7) {w : List Bool}
    (hlen : w.length = 5) : Receiving es (taken ++ [majorityBit (onesIn w)]) (votes w st) := by
  obtain ⟨mid, hmid, hvotes⟩ := h.votes_window hlen
  have hbits : mid.bitsInByte ≠ 7#3 := by
    rw [hmid.bitsInByte]
    bv_omega
  rw [hvotes, decodeWindow_of_partial hbits, hmid.phase]
  refine ⟨rfl, hmid.active, hmid.frameCnt, ?_, ?_, ?_⟩
  · rw [byteOfBits_concat, ← hmid.pendingByte]
  · rw [List.length_append, List.length_singleton, hmid.bitsInByte, BitVec.ofNat_add]
  · simp [preambleTable, hmid.events]

/-- Windows that do not complete a byte add their bits. -/
theorem windows_within {bits : List Bool} (h : Receiving es taken st)
    (hlen : taken.length + bits.length < 8) (hspells : Spells windows bits) :
    Receiving es (taken ++ bits) (votes windows.flatten st) := by
  induction bits generalizing taken st windows with
  | nil =>
    rw [hspells.eq_nil, List.append_nil]
    exact h
  | cons bit bits ih =>
    obtain ⟨w, rest, rfl, hw, rfl, hrest⟩ := hspells.cons_inv
    rw [List.length_cons] at hlen
    rw [List.flatten_cons, votes_append, List.append_cons]
    exact ih (h.window_within (by omega) hw) (by rw [List.length_append, List.length_singleton]; omega) hrest

/-- Eight windows bring the DECODE that finds seven bits taken and completes the byte they spell. -/
theorem byte_completes {b : Byte} (h : Receiving es [] st) (hspells : Spells windows (byteBits b)) :
    ∃ mid sum, votes windows.flatten st = mid.decodeWindow sum ∧
      Receiving es ((byteBits b).take 7) mid ∧ takeBit mid.pendingByte (majorityBit sum) = b := by
  obtain ⟨front, back, rfl, hfront, hback⟩ := Spells.append_inv (a := (byteBits b).take 7) hspells
  obtain ⟨w, rest, rfl, hw, hbit, hrest⟩ := hback.cons_inv
  have hseven : Receiving es ((byteBits b).take 7) (votes front.flatten st) :=
    h.windows_within (bits := (byteBits b).take 7) (by decide : 0 + 7 < 8) hfront
  obtain ⟨mid, hmid, hvotes⟩ := hseven.votes_window hw
  refine ⟨mid, onesIn w, ?_, hmid, ?_⟩
  · rw [hrest.eq_nil, List.flatten_append, votes_append, List.flatten_singleton, hvotes]
  · rw [hbit, hmid.pendingByte, ← byteOfBits_concat]
    exact byteOfBits_byteBits b

/-- A byte of the payload is emitted (R163). -/
theorem payload_byte {b : Byte} (h : Receiving es [] st) (hspells : Spells windows (byteBits b))
    (hbyte : b ≠ 0#8) : Receiving (es ++ [.byte b]) [] (votes windows.flatten st) := by
  obtain ⟨mid, sum, hvotes, hmid, hb⟩ := h.byte_completes hspells
  rw [hvotes, decodeWindow_of_byte hmid.bitsInByte hb hbyte, hmid.phase]
  exact ⟨rfl, hmid.active, hmid.frameCnt, rfl, rfl, by simp [preambleTable, byteTable, hmid.events]⟩

/-- The stop byte ends the transmission (R165). -/
theorem stop_byte (h : Receiving es [] st) (hspells : Spells windows (byteBits 0#8)) :
    DecoderIdle (votes windows.flatten st) ∧ (votes windows.flatten st).events = es ++ [.txEnded] := by
  obtain ⟨mid, sum, hvotes, hmid, hb⟩ := h.byte_completes hspells
  rw [hvotes, decodeWindow_of_stop hmid.bitsInByte hb, hmid.phase]
  exact ⟨⟨rfl, rfl, hmid.frameCnt, rfl, rfl, rfl⟩, by simp [preambleTable, hmid.events]⟩

/-- Payload and stop byte, by induction on the payload. -/
theorem payload_stop {payload : List Byte} (h : Receiving es [] st) (hpayload : ∀ b ∈ payload, b ≠ 0#8)
    (hspells : Spells windows ((payload ++ [0#8]).flatMap byteBits)) :
    DecoderIdle (votes windows.flatten st) ∧
      (votes windows.flatten st).events = es ++ payload.map .byte ++ [.txEnded] := by
  induction payload generalizing es st windows with
  | nil =>
    rw [List.map_nil, List.append_nil]
    exact h.stop_byte hspells
  | cons b payload ih =>
    rw [List.cons_append, List.flatMap_cons] at hspells
    obtain ⟨front, back, rfl, hfront, hback⟩ := hspells.append_inv
    obtain ⟨hb, hrest⟩ := List.forall_mem_cons.mp hpayload
    rw [List.flatten_append, votes_append, List.map_cons, List.append_cons es]
    exact ih (h.payload_byte hfront hb) hrest hback

end Receiving

/-- The preamble from reset, run (vector V4). -/
theorem votes_preambleRaw_reset :
    votes preambleRaw State.reset =
      { State.reset with phase := .locked, transferActive := true, bitWindowIndex := 8#32 } := by decide +kernel

/-- The preamble locks every idle block as it locks the block after reset (R148). -/
theorem preambleRaw_locks {st : State} (hidle : DecoderIdle st) :
    Receiving st.events [] (votes preambleRaw st) ∧ (votes preambleRaw st).bitWindowIndex = 8#32 := by
  have hwin : SameNewest st.frameCnt st.win State.reset.win := by
    obtain ⟨-, -, hcnt, -⟩ := hidle
    rw [hcnt]
    nofun
  have hsame := (inStep_of_idle hidle ⟨rfl, rfl, rfl, rfl, rfl, rfl⟩).votes hwin preambleRaw
  rw [votes_preambleRaw_reset] at hsame
  obtain ⟨hphase, hactive, hindex, hbyte, hbits, hcnt, es, hevents, hnone⟩ := hsame
  obtain rfl : es = [] := (List.nil_append es).symm.trans hnone.symm
  exact ⟨⟨hphase, hactive, hcnt, hbyte, hbits, hevents.trans (List.append_nil _)⟩, hindex⟩

/-- Raw bits leave the scheduler alone (R60). -/
theorem votes_frame (bits : List Bool) (st : State) : SameScheduler (votes bits st) st := by
  induction bits generalizing st with
  | nil => exact .refl st
  | cons bit bits ih => exact (ih (st.vote bit)).trans (vote_frame st bit)

/-- Settles O43: the preamble locks the block, and a locked block delivers byte after byte. -/
theorem transmissionIsDecoded : Obligations.TransmissionIsDecoded := by
  intro st payload windows hidle hpayload hlen hspells locked t
  obtain ⟨hlocked, hindex⟩ := preambleRaw_locks hidle
  obtain ⟨hend, hevents⟩ := hlocked.payload_stop hpayload ⟨hlen, hspells⟩
  obtain ⟨-, hbuf, hwrIdx, hsticky, -⟩ :=
    (votes_frame windows.flatten locked).trans (votes_frame preambleRaw st)
  exact ⟨hlocked.phase, hindex, hlocked.events, hend, hevents, hwrIdx, hsticky, hbuf⟩

/-! ## BYTE with data 0 (R171) -/

/-- Settles O13. -/
theorem neverEmittedByteFaults : Obligations.NeverEmittedByteFaults :=
  ⟨decodeEvent_byte 0x00#8, fun _ => rfl⟩

/-- No operation adds BYTE with data 0 to what the event port has carried: CONSUME delivers no stop byte
(R163), and the row EVT.BYTE faults on it (log 4). -/
theorem exec_keeps_eventsLegal {i : Instr} {st t : State} (h : exec i st = .next t)
    (hlegal : EventsLegal st) : EventsLegal t := by
  cases i with
  | nop | reset =>
    obtain rfl := Host.Outcome.next.inj h
    exact hlegal
  | beginCapture s =>
    rw [execBeginCapture_frame h]
    exact hlegal
  | sample x => exact execSample_keeps_eventsLegal (exec_sample x st ▸ h) hlegal
  | consume k =>
    rw [exec_consume] at h
    rcases execConsume_cases h with ⟨-, rfl⟩ | ⟨-, frame, -, rfl⟩
    · exact hlegal
    · exact vote_keeps_eventsLegal hlegal (st.rawBit frame)
  | evtByte d =>
    obtain ⟨hd, rfl⟩ := execEvtByte_cases h
    exact eventsLegal_emit hlegal (by simpa using hd)
  | evtSyncLost | evtTxEnded | evtOverrun s | evtFrameReady s =>
    obtain rfl := Host.Outcome.next.inj h
    exact eventsLegal_emit hlegal nofun

/-- Settles O14. -/
theorem noOperationEmitsByteZero : Obligations.NoOperationEmitsByteZero :=
  fun _ _ _ hlegal h => exec_keeps_eventsLegal h hlegal

/-! ## What a CONSUME depends on (R170) -/

/-- The pipeline on one frame keeps two blocks with the same debouncer and decoder the same, and emits the
same in both (R60). -/
theorem stepFrame_congr {a b : State} (hsame : sameConsumerSide a b) (frame : List Sample) :
    sameConsumerSide (a.stepFrame frame) (b.stepFrame frame) ∧
      ∃ es, (a.stepFrame frame).events = a.events ++ es ∧ (b.stepFrame frame).events = b.events ++ es := by
  obtain ⟨hwin, hcnt, hphase, hactive, hindex, hbyte, hbits⟩ := hsame
  have hstart : InStep a.events b.events a b :=
    ⟨hphase, hactive, hindex, hbyte, hbits, hcnt, [], (List.append_nil _).symm, (List.append_nil _).symm⟩
  have hraw : a.rawBit frame = b.rawBit frame := by rw [State.rawBit, State.rawBit, hphase]
  obtain ⟨⟨hphase', hactive', hindex', hbyte', hbits', hcnt', hevents⟩, -⟩ :=
    hstart.vote (fun _ _ => by rw [hwin]) (b.rawBit frame)
  rw [State.stepFrame, State.stepFrame, hraw]
  exact ⟨⟨by rw [vote_win, vote_win, hwin], hcnt', hphase', hactive', hindex', hbyte', hbits'⟩, hevents⟩

/-- Settles O25: a slot that is not FULL in one state is not FULL in the other, and a FULL one holds the
same frame. -/
theorem consumeDependsOnFrameOnly : Obligations.ConsumeDependsOnFrameOnly := by
  intro k a b a' hslot hread hsame h
  rw [exec_consume] at h
  rcases execConsume_cases h with ⟨hidle, rfl⟩ | ⟨hfull, frame, hframe, rfl⟩
  · exact ⟨b, [], exec_consume_of_ne_full (hslot ▸ hidle), hsame, (List.append_nil _).symm,
      (List.append_nil _).symm⟩
  · obtain ⟨hside, es, hevents, hevents'⟩ := stepFrame_congr hsame frame
    exact ⟨_, es, exec_consume_of_readFrame (hslot ▸ hfull) (hread ▸ hframe), hside, hevents, hevents'⟩

end Sys2Proof.Machine
end

section
/-! SUPPORT. The proofs of the statements of spec/60_exceptions.md: that no stimulus stops in a state that
meets the invariant (R201), and the two orders of a SAMPLE and a CONSUME at a frame's end (R198). -/

namespace Sys2Proof.Machine

/-! ## Each stimulus completes (R201) -/

theorem exec_beginCapture_completes (s : Slot) (st : State) : ∃ t, exec (.beginCapture s) st = .next t := by
  by_cases hfree : st.slot s = .empty ∧ st.slot s.other ≠ .filling
  · exact ⟨_, exec_beginCapture_of_free hfree.1 hfree.2⟩
  · exact ⟨_, exec_beginCapture_of_not_free hfree⟩

/-- The one way for SAMPLE to stop is a frame's end with both slots FILLING (R103; log 6). -/
theorem exec_sample_completes (x : Sample) {st : State}
    (hone : ∀ f, st.slot f = .filling → st.slot f.other ≠ .filling) :
    ∃ t, exec (.sample x) st = .next t := by
  cases hfill : st.fillSlot with
  | none => exact ⟨st, sampleWithoutFillingSlotDropped x st (State.fillSlot_eq_none.mp hfill)⟩
  | some f =>
    obtain ⟨hf, -⟩ := State.fillSlot_eq_some.mp hfill
    by_cases hidx : st.wrIdx = 1023#10
    · cases ho : st.slot f.other with
      | empty =>
        obtain ⟨t, ht, -⟩ := lastSampleHandsOver x st f hf ho hidx
        exact ⟨t, ht⟩
      | full =>
        obtain ⟨t, ht, -⟩ := lastSampleOverrun x st f hf ho hidx
        exact ⟨t, ht⟩
      | filling => exact absurd ho (hone f hf)
    · exact ⟨_, exec_sample_of_within x hfill hidx⟩

/-- CONSUME of a FULL slot whose words are all written completes and frees the slot (R104). -/
theorem exec_consume_of_written {k : Slot} {st : State} (hfull : st.slot k = .full)
    (hwritten : ∀ i, Written st.buf k i) : ∃ t, exec (.consume k) st = .next t ∧ t.slot k = .empty := by
  obtain ⟨frame, hread⟩ := readFrame_of_written hwritten
  exact ⟨_, exec_consume_of_readFrame hfull hread, State.slot_setSlot_same _ k .empty⟩

/-- The one way for CONSUME to stop is a FULL slot with a word that nothing has written (R22; log 5). -/
theorem exec_consume_completes (k : Slot) {st : State} (hwritten : FramesWritten st) :
    ∃ t, exec (.consume k) st = .next t := by
  by_cases hfull : st.slot k = .full
  · obtain ⟨t, ht, -⟩ := exec_consume_of_written hfull fun i => (hwritten k i).1 hfull
    exact ⟨t, ht⟩
  · exact ⟨st, exec_consume_of_ne_full hfull⟩

/-- Settles O47: R26 excludes the stop of SAMPLE, and R108 the stop of CONSUME. -/
theorem everyStimulusCompletes : Obligations.EveryStimulusCompletes := by
  intro i st hinv hstimulus
  cases i with
  | nop => exact ⟨_, exec_nop st⟩
  | reset => exact ⟨_, exec_reset st⟩
  | beginCapture s => exact exec_beginCapture_completes s st
  | sample x =>
    refine exec_sample_completes x fun f hf => ?_
    obtain ⟨-, -, hone⟩ := (slotsLegal_iff st.slots f).mp hinv.slots
    exact hone hf
  | consume k => exact exec_consume_completes k hinv.written
  | evtByte d | evtSyncLost | evtTxEnded | evtOverrun s | evtFrameReady s => cases hstimulus

/-! ## The race at a frame's end (R198) -/

/-- OVERRUN is reported by SAMPLE alone (R194): none of the events that a CONSUME adds is one. -/
theorem execConsume_emits_no_overrun {k : Slot} {st t : State} (h : execConsume k st = .next t) :
    ∃ es, t.events = st.events ++ es ∧ ∀ s : Slot, Event.overrun s ∉ es := by
  rcases execConsume_cases h with ⟨-, rfl⟩ | ⟨-, frame, -, rfl⟩
  · exact ⟨[], (List.append_nil _).symm, nofun⟩
  · obtain ⟨as, bs, hevents, has, hbs⟩ := vote_events st (st.rawBit frame)
    refine ⟨as ++ bs, hevents, fun s hs => ?_⟩
    rcases List.mem_append.mp hs with hs | hs
    · rcases has with rfl | rfl <;> simp at hs
    · rcases hbs with rfl | rfl | ⟨d, -, rfl⟩ <;> simp at hs

/-- Settles O23. The CONSUME that comes first empties its slot, so the SAMPLE hands over; the SAMPLE that
comes first meets a FULL slot, reclaims it, and the CONSUME finds it FILLING. -/
theorem raceAtFrameEnd : Obligations.RaceAtFrameEnd := by
  intro st x k hfull hother hidx hwritten
  constructor
  · obtain ⟨t, hconsume, hempty⟩ := exec_consume_of_written hfull hwritten
    obtain ⟨⟨hwrIdx, hsticky, -⟩, hfilling, -⟩ := execConsume_frame (exec_consume k st ▸ hconsume)
    obtain ⟨es, hevents, hnone⟩ := execConsume_emits_no_overrun (exec_consume k st ▸ hconsume)
    obtain ⟨a, hsample, ha, hready, hnext, -⟩ := lastSampleHandsOver x t k.other
      (hfilling.trans hother) (by rwa [Slot.other_other]) (hwrIdx.trans hidx)
    rw [Slot.other_other] at hnext
    refine ⟨a, es, ?_, hnext, hready, by rw [ha, ← hsticky], by rw [ha, ← hevents], hnone⟩
    rw [runOps_cons_next hconsume, runOps_singleton, hsample]
  · obtain ⟨b, hsample, hb, hready, hnext, -, -, hidle⟩ := lastSampleOverrun x st k.other hother
      (by rwa [Slot.other_other]) hidx
    rw [Slot.other_other] at hb hnext hidle
    refine ⟨b, ?_, hnext, hready, by rw [hb], execSample_sameConsumerSide (exec_sample x st ▸ hsample),
      by rw [hb]⟩
    rw [runOps_cons_next hsample, runOps_singleton, hidle]

end Sys2Proof.Machine
end

section
/-! SUPPORT. The proofs of the statements of spec/70_reset_and_hazards.md: RESET (R220), the boot sequence
(R222), and the two orders of a SAMPLE and a CONSUME off a frame's end (R227). -/

namespace Sys2Proof.Machine

/-! ## RESET (R220) -/

theorem resetBlock_slot (st : State) (k : Slot) : st.resetBlock.slot k = .empty := by cases k <;> rfl

theorem resetBlock_resetBlock (st : State) : st.resetBlock.resetBlock = st.resetBlock := rfl

/-- RESET leaves the debouncer and the decoder idle (R37, R39). -/
theorem resetBlock_decoderIdle (st : State) : DecoderIdle st.resetBlock := ⟨rfl, rfl, rfl, rfl, rfl, rfl⟩

/-- Settles O2. -/
theorem resetWritesEverythingButBuffers : Obligations.ResetWritesEverythingButBuffers := by
  refine ⟨rfl, fun st => ?_⟩
  obtain ⟨hst0, hst1, hst2, hst3⟩ := resetBlock_status st
  refine ⟨st.resetBlock, exec_reset st, rfl, fun a => ?_, hst0, hst1, hst2, hst3, ?_⟩
  · rw [State.resetBlock_buf]
  · rw [exec_reset, resetBlock_resetBlock]

/-! ## The boot sequence (R222) -/

/-- With no slot FILLING any number of samples is discarded (R102 a). -/
theorem runOps_samples_dropped {st : State} (hidle : ∀ k, st.slot k ≠ .filling) (xs : List Sample) :
    runOps (xs.map .sample) st = .next st := by
  induction xs with
  | nil => rfl
  | cons x xs ih =>
    rw [List.map_cons, runOps_cons_next (sampleWithoutFillingSlotDropped x st hidle), ih]

/-- Settles O26: RESET empties both slots, so the samples are discarded and BEGIN_CAPTURE finds its guard
met. -/
theorem bootStartsCapture : Obligations.BootStartsCapture := by
  intro st xs s
  have hidle : ∀ k, st.resetBlock.slot k ≠ .filling := fun k => by simp [resetBlock_slot]
  have hboot : runOps ([.reset] ++ xs.map .sample) st = .next st.resetBlock :=
    (runOps_cons_next (exec_reset st) _).trans (runOps_samples_dropped hidle xs)
  refine ⟨(st.resetBlock.setSlot s .filling).setWrIdx 0#10, ?_, State.slot_setSlot_same _ s .filling,
    ?_, rfl, rfl, rfl, resetBlock_decoderIdle st⟩
  · rw [runOps_append_next hboot, runOps_singleton]
    exact exec_beginCapture_of_free (resetBlock_slot st s) (hidle s.other)
  · exact (State.slot_setSlot_other _ s .filling).trans (resetBlock_slot st s.other)

/-! ## SAMPLE off a frame's end -/

/-- What a SAMPLE off a frame's end leaves: the sample stored at `wr_idx` of the FILLING slot, or the state
as it was when no slot is FILLING (R102). -/
def State.takeSample (st : State) (x : Sample) : State :=
  match st.fillSlot with
  | none => st
  | some f => (st.storeSample f x).setWrIdx (st.wrIdx + 1#10)

theorem takeSample_of_idle {st : State} (hfill : st.fillSlot = none) (x : Sample) :
    st.takeSample x = st := by
  rw [State.takeSample, hfill]

theorem takeSample_of_filling {st : State} {f : Slot} (hfill : st.fillSlot = some f) (x : Sample) :
    st.takeSample x = (st.storeSample f x).setWrIdx (st.wrIdx + 1#10) := by
  rw [State.takeSample, hfill]

/-- Off a frame's end SAMPLE always completes, and leaves `takeSample`. -/
theorem exec_sample_eq_takeSample (x : Sample) {st : State} (hidx : st.wrIdx ≠ 1023#10) :
    exec (.sample x) st = .next (st.takeSample x) := by
  cases hfill : st.fillSlot with
  | none =>
    rw [takeSample_of_idle hfill, sampleWithoutFillingSlotDropped x st (State.fillSlot_eq_none.mp hfill)]
  | some f => rw [takeSample_of_filling hfill, exec_sample_of_within x hfill hidx]

/-- Off a frame's end SAMPLE writes no slot flag (R102). -/
theorem takeSample_slot (st : State) (x : Sample) (k : Slot) : (st.takeSample x).slot k = st.slot k := by
  cases hfill : st.fillSlot with
  | none => rw [takeSample_of_idle hfill]
  | some f =>
    rw [takeSample_of_filling hfill]
    rfl

/-- A FULL slot holds the same frame before and after a SAMPLE (R58). -/
theorem readFrame_takeSample {st : State} {k : Slot} (hfull : st.slot k = .full) (x : Sample) :
    readFrame (st.takeSample x).buf k = readFrame st.buf k := by
  cases hfill : st.fillSlot with
  | none => rw [takeSample_of_idle hfill]
  | some f =>
    rw [takeSample_of_filling hfill]
    exact readFrame_congr fun i =>
      memRead_storeSample_other st f x (bufAddr_ne_of_full hfull hfill i st.wrIdx)

/-! ## SAMPLE and the two parts of CONSUME -/

/-- A state is its scheduler, its debouncer and decoder, and what the event port has carried. -/
theorem State.eq_of_sides {a b : State} (hscheduler : SameScheduler a b)
    (hconsumer : sameConsumerSide a b) (hevents : a.events = b.events) : a = b := by
  obtain ⟨hslots, hbuf, hidx, hsticky, hinput⟩ := hscheduler
  obtain ⟨hwin, hcnt, hphase, hactive, hindex, hbyte, hbits⟩ := hconsumer
  cases a
  cases b
  simp_all only

/-- The pipeline neither reads nor writes the buffers and `wr_idx` (R60, R170). -/
theorem stepFrame_with_buf_wrIdx (st : State) (frame : List Sample) (m : Memory) (i : BitVec 10) :
    { st with buf := m, wrIdx := i }.stepFrame frame =
      { st.stepFrame frame with buf := m, wrIdx := i } := by
  obtain ⟨hslots, hbuf, hidx, hsticky, hinput⟩ :=
    stepFrame_frame { st with buf := m, wrIdx := i } frame
  obtain ⟨hslots', -, -, hsticky', hinput'⟩ := stepFrame_frame st frame
  obtain ⟨hside, es, hevents, hevents'⟩ :=
    stepFrame_congr (a := { st with buf := m, wrIdx := i }) (sameConsumerSide_refl st) frame
  exact State.eq_of_sides
    ⟨hslots.trans hslots'.symm, hbuf, hidx, hsticky.trans hsticky'.symm, hinput.trans hinput'.symm⟩
    hside (hevents.trans hevents'.symm)

theorem stepFrame_takeSample (st : State) (frame : List Sample) (x : Sample) :
    (st.takeSample x).stepFrame frame = (st.stepFrame frame).takeSample x := by
  obtain ⟨hslots, hbuf, hidx, -, -⟩ := stepFrame_frame st frame
  have hsame : (st.stepFrame frame).fillSlot = st.fillSlot := State.fillSlot_congr hslots
  cases hfill : st.fillSlot with
  | none => rw [takeSample_of_idle hfill, takeSample_of_idle (hsame.trans hfill)]
  | some f =>
    rw [takeSample_of_filling hfill, takeSample_of_filling (hsame.trans hfill)]
    refine (stepFrame_with_buf_wrIdx st frame _ _).trans ?_
    simp only [State.storeSample, State.setWrIdx, hbuf, hidx]

/-- Freeing a FULL slot makes no slot FILLING and takes none out of FILLING (R106). -/
theorem slot_setSlot_empty_eq_filling_iff {st : State} {k : Slot} (hfull : st.slot k = .full) (f : Slot) :
    (st.setSlot k .empty).slot f = .filling ↔ st.slot f = .filling := by
  rcases Slot.eq_or_eq_other k f with rfl | rfl
  · simp [hfull]
  · rw [State.slot_setSlot_other]

theorem fillSlot_setSlot_empty {st : State} {k : Slot} (hfull : st.slot k = .full) :
    (st.setSlot k .empty).fillSlot = st.fillSlot :=
  Option.ext fun f => by
    simp only [State.fillSlot_eq_some, ne_eq, slot_setSlot_empty_eq_filling_iff hfull]

theorem setSlot_empty_takeSample {st : State} {k : Slot} (hfull : st.slot k = .full) (x : Sample) :
    (st.takeSample x).setSlot k .empty = (st.setSlot k .empty).takeSample x := by
  have hsame := fillSlot_setSlot_empty hfull
  cases hfill : st.fillSlot with
  | none => rw [takeSample_of_idle hfill, takeSample_of_idle (hsame.trans hfill)]
  | some f =>
    rw [takeSample_of_filling hfill, takeSample_of_filling (hsame.trans hfill)]
    rfl

/-! ## The two orders off a frame's end (R227) -/

theorem exec_consume_of_readFrame_error {k : Slot} {st : State} {a : BufAddr}
    (hfull : st.slot k = .full) (hread : readFrame st.buf k = .error a) :
    exec (.consume k) st = .fault (.unwrittenWord a) := by
  simp only [exec_consume, execConsume, hfull, hread]

/-- Settles O22, by what CONSUME finds: a slot that is not FULL, a FULL slot with a word that nothing has
written, or a whole frame. The SAMPLE changes none of this, and the pipeline and the freed flag change
nothing that the SAMPLE reads. -/
theorem sampleCommutesWithConsume : Obligations.SampleCommutesWithConsume := by
  intro st x k hidx
  have hsample := exec_sample_eq_takeSample x hidx
  have hslot := takeSample_slot st x k
  rw [runOps_cons_next hsample, runOps_singleton]
  by_cases hfull : st.slot k = .full
  · have hsame := readFrame_takeSample hfull x
    cases hread : readFrame st.buf k with
    | error a =>
      rw [exec_consume_of_readFrame_error (hslot.trans hfull) (hsame.trans hread), runOps_cons,
        exec_consume_of_readFrame_error hfull hread]
    | ok frame =>
      have hframe := stepFrame_frame st frame
      have hidx' : ((st.stepFrame frame).setSlot k .empty).wrIdx ≠ 1023#10 := by
        obtain ⟨-, -, hwrIdx, -, -⟩ := hframe
        rwa [State.setSlot_wrIdx, hwrIdx]
      rw [exec_consume_of_readFrame (hslot.trans hfull) (hsame.trans hread),
        runOps_cons_next (exec_consume_of_readFrame hfull hread), runOps_singleton,
        exec_sample_eq_takeSample x hidx', stepFrame_takeSample,
        setSlot_empty_takeSample ((hframe.slot k).trans hfull)]
  · rw [exec_consume_of_ne_full (hslot ▸ hfull), runOps_cons_next (exec_consume_of_ne_full hfull),
      runOps_singleton, hsample]

end Sys2Proof.Machine
end
